-- ==== Sys2Proof/Word.lean ====
section
/-! DEFINITION. The word types of the block (00_scope.md R6, R8, R9): every register, memory byte and
field is an unsigned bit vector of the width the spec gives it; indexes into a register file or the
keypad are bounded numbers. -/

namespace Sys2Proof

/-- 8 bits: a general register, a timer, the stack pointer, a memory byte, an immediate kk. -/
abbrev Byte := BitVec 8

/-- 16 bits: pc, I, a stack cell, an opcode. -/
abbrev Word := BitVec 16

/-- 64 bits: one framebuffer row, bit 63 the leftmost pixel (R33). -/
abbrev Row := BitVec 64

/-- 12 bits: the address field nnn (R7, R71). -/
abbrev Addr := BitVec 12

/-- 4 bits: the group nibble g and the count n (R71). -/
abbrev Nibble := BitVec 4

/-- The number of a general register V0..VF (R21). -/
abbrev Reg := Fin 16

/-- The number of a hex key 0x0..0xF (R34). -/
abbrev Key := Fin 16

/-- The register that doubles as the flags register (R22). -/
def flagReg : Reg := 15

end Sys2Proof
end

