-- ==== Sys2Proof/Syntax.lean ====
section
/-! DEFINITION. The 35 instruction forms of 30_encoding.md R74, one constructor per row of
spec/opcode_table.json. Fields are those of R71. A field the encoding carries and execution ignores
(y of SHR and SHL, x of Fx55 and Fx65: R82) is kept, so that an instruction says its whole word. -/

namespace Sys2Proof

/-- An instruction (R74). -/
inductive Instr where
  /-- 00E0 `CLS` (R163) -/
  | cls
  /-- 00EE `RET` (R104) -/
  | ret
  /-- 0nnn, nnn ≥ 0x100: `SYS addr` (R101) -/
  | sys (nnn : Addr)
  /-- 1nnn `JP addr` (R102) -/
  | jp (nnn : Addr)
  /-- 2nnn `CALL addr` (R103) -/
  | call (nnn : Addr)
  /-- 3xkk `SE Vx, byte` (R105) -/
  | seImm (x : Reg) (kk : Byte)
  /-- 4xkk `SNE Vx, byte` (R106) -/
  | sneImm (x : Reg) (kk : Byte)
  /-- 5xy0 `SE Vx, Vy` (R107) -/
  | seReg (x y : Reg)
  /-- 6xkk `LD Vx, byte` (R122) -/
  | ldImm (x : Reg) (kk : Byte)
  /-- 7xkk `ADD Vx, byte` (R123) -/
  | addImm (x : Reg) (kk : Byte)
  /-- 8xy0 `LD Vx, Vy` (R124) -/
  | ldReg (x y : Reg)
  /-- 8xy1 `OR Vx, Vy` (R125) -/
  | orReg (x y : Reg)
  /-- 8xy2 `AND Vx, Vy` (R126) -/
  | andReg (x y : Reg)
  /-- 8xy3 `XOR Vx, Vy` (R127) -/
  | xorReg (x y : Reg)
  /-- 8xy4 `ADD Vx, Vy` (R128) -/
  | addReg (x y : Reg)
  /-- 8xy5 `SUB Vx, Vy` (R129) -/
  | subReg (x y : Reg)
  /-- 8xy6 `SHR Vx {, Vy}` (R130); y is ignored by execution -/
  | shr (x y : Reg)
  /-- 8xy7 `SUBN Vx, Vy` (R131) -/
  | subn (x y : Reg)
  /-- 8xyE `SHL Vx {, Vy}` (R132); y is ignored by execution -/
  | shl (x y : Reg)
  /-- 9xy0 `SNE Vx, Vy` (R108) -/
  | sneReg (x y : Reg)
  /-- Annn `LD I, addr` (R140) -/
  | ldI (nnn : Addr)
  /-- Bnnn `JP V0, addr` (R109) -/
  | jpV0 (nnn : Addr)
  /-- Cxkk `RND Vx, byte` (R133) -/
  | rnd (x : Reg) (kk : Byte)
  /-- Dxyn `DRW Vx, Vy, nibble` (R166) -/
  | drw (x y : Reg) (n : Nibble)
  /-- Ex9E `SKP Vx` (R180) -/
  | skp (x : Reg)
  /-- ExA1 `SKNP Vx` (R181) -/
  | sknp (x : Reg)
  /-- Fx07 `LD Vx, DT` (R183) -/
  | ldVxDt (x : Reg)
  /-- Fx0A `LD Vx, K` (R182) -/
  | ldVxK (x : Reg)
  /-- Fx15 `LD DT, Vx` (R184) -/
  | ldDtVx (x : Reg)
  /-- Fx18 `LD ST, Vx` (R185) -/
  | ldStVx (x : Reg)
  /-- Fx1E `ADD I, Vx` (R141) -/
  | addI (x : Reg)
  /-- Fx29 `LD F, Vx` (R142) -/
  | ldF (x : Reg)
  /-- Fx33 `LD B, Vx` (R143) -/
  | ldB (x : Reg)
  /-- Fx55 `LD [I], Vx` (R144); x is ignored by execution -/
  | storeRegs (x : Reg)
  /-- Fx65 `LD Vx, [I]` (R145); x is ignored by execution -/
  | loadRegs (x : Reg)
  deriving DecidableEq, Repr

end Sys2Proof
end

