-- ==== Sys2Proof/WellFormed.lean ====
section
/-! DEFINITION. Which terms of `Instr` are instructions. The widths of the fields are their types'; the
one check left is that of R74 row 3 and R75: the words 0x0000..0x00FF are no SYS. -/

namespace Sys2Proof

/-- R75: a SYS has nnn ≥ 0x100 (its x field is not 0). Every other form is an instruction for every
value of its fields (R79, R73). -/
def Instr.wf : Instr → Bool
  | .sys nnn => decide (0x100 ≤ nnn.toNat)
  | .cls | .ret | .jp _ | .call _ | .seImm _ _ | .sneImm _ _ | .seReg _ _ | .ldImm _ _
  | .addImm _ _ | .ldReg _ _ | .orReg _ _ | .andReg _ _ | .xorReg _ _ | .addReg _ _
  | .subReg _ _ | .shr _ _ | .subn _ _ | .shl _ _ | .sneReg _ _ | .ldI _ | .jpV0 _ | .rnd _ _
  | .drw _ _ _ | .skp _ | .sknp _ | .ldVxDt _ | .ldVxK _ | .ldDtVx _ | .ldStVx _ | .addI _
  | .ldF _ | .ldB _ | .storeRegs _ | .loadRegs _ => true

end Sys2Proof
end

