-- ==== Sys2Proof/Decode.lean ====
section
/-! DEFINITION. Decoding (30_encoding.md R70 to R80), total on any word and any bytes, rejecting by
name; then the encoder, written from the patterns of R74; then the rows of R74 as mask and match. -/

namespace Sys2Proof

/-! ### The field cuts of R71 -/

/-- g = op[15:12]. -/
def opG (op : Word) : Nibble := op.extractLsb' 12 4
/-- x = op[11:8]. -/
def opX (op : Word) : Reg := (op.extractLsb' 8 4).toFin
/-- y = op[7:4]. -/
def opY (op : Word) : Reg := (op.extractLsb' 4 4).toFin
/-- n = op[3:0]. -/
def opN (op : Word) : Nibble := op.extractLsb' 0 4
/-- kk = op[7:0]. -/
def opKK (op : Word) : Byte := op.extractLsb' 0 8
/-- nnn = op[11:0]. -/
def opNNN (op : Word) : Addr := op.extractLsb' 0 12

/-! ### The decoder -/

/-- Why a word, or a byte string, is no instruction. Every reason but `tooShort` is INVALID (R73). -/
inductive DecodeReject where
  /-- fewer than the two bytes every instruction has (R70) -/
  | tooShort
  /-- a word 0x00kk other than 00E0 and 00EE (R75) -/
  | group0
  /-- 5xyN or 9xyN with N ≠ 0 (R76) -/
  | pairNibble
  /-- 8xyN with N in 8, 9, A, B, C, D, F (R77) -/
  | group8
  /-- Exkk with kk not 9E or A1 (R78) -/
  | groupE
  /-- Fxkk with kk not one of the nine defined values (R78) -/
  | groupF
  deriving DecidableEq, Repr

/-- Group 0 (R73, R75). -/
def decode0 (op : Word) : Except DecodeReject Instr :=
  if op = 0x00E0 then .ok .cls
  else if op = 0x00EE then .ok .ret
  else if opX op ≠ 0 then .ok (.sys (opNNN op))
  else .error .group0

/-- Group 8 (R73, R77). -/
def decode8 (op : Word) : Except DecodeReject Instr :=
  match opN op with
  | 0x0#4 => .ok (.ldReg (opX op) (opY op))
  | 0x1#4 => .ok (.orReg (opX op) (opY op))
  | 0x2#4 => .ok (.andReg (opX op) (opY op))
  | 0x3#4 => .ok (.xorReg (opX op) (opY op))
  | 0x4#4 => .ok (.addReg (opX op) (opY op))
  | 0x5#4 => .ok (.subReg (opX op) (opY op))
  | 0x6#4 => .ok (.shr (opX op) (opY op))
  | 0x7#4 => .ok (.subn (opX op) (opY op))
  | 0xE#4 => .ok (.shl (opX op) (opY op))
  | _ => .error .group8

/-- Group E (R73, R78). -/
def decodeE (op : Word) : Except DecodeReject Instr :=
  match opKK op with
  | 0x9E#8 => .ok (.skp (opX op))
  | 0xA1#8 => .ok (.sknp (opX op))
  | _ => .error .groupE

/-- Group F (R73, R78). -/
def decodeF (op : Word) : Except DecodeReject Instr :=
  match opKK op with
  | 0x07#8 => .ok (.ldVxDt (opX op))
  | 0x0A#8 => .ok (.ldVxK (opX op))
  | 0x15#8 => .ok (.ldDtVx (opX op))
  | 0x18#8 => .ok (.ldStVx (opX op))
  | 0x1E#8 => .ok (.addI (opX op))
  | 0x29#8 => .ok (.ldF (opX op))
  | 0x33#8 => .ok (.ldB (opX op))
  | 0x55#8 => .ok (.storeRegs (opX op))
  | 0x65#8 => .ok (.loadRegs (opX op))
  | _ => .error .groupF

/-- The decode function of R73, total on all 65536 words. The last arm is group F. -/
def decodeWord (op : Word) : Except DecodeReject Instr :=
  match opG op with
  | 0x0#4 => decode0 op
  | 0x1#4 => .ok (.jp (opNNN op))
  | 0x2#4 => .ok (.call (opNNN op))
  | 0x3#4 => .ok (.seImm (opX op) (opKK op))
  | 0x4#4 => .ok (.sneImm (opX op) (opKK op))
  | 0x5#4 => if opN op = 0 then .ok (.seReg (opX op) (opY op)) else .error .pairNibble
  | 0x6#4 => .ok (.ldImm (opX op) (opKK op))
  | 0x7#4 => .ok (.addImm (opX op) (opKK op))
  | 0x8#4 => decode8 op
  | 0x9#4 => if opN op = 0 then .ok (.sneReg (opX op) (opY op)) else .error .pairNibble
  | 0xA#4 => .ok (.ldI (opNNN op))
  | 0xB#4 => .ok (.jpV0 (opNNN op))
  | 0xC#4 => .ok (.rnd (opX op) (opKK op))
  | 0xD#4 => .ok (.drw (opX op) (opY op) (opN op))
  | 0xE#4 => decodeE op
  | _ => decodeF op

/-! ### Bytes: the first byte is the high byte of the word (R55, R70) -/

/-- The opcode two consecutive bytes make: `(b0 << 8) | b1` (R55). -/
def opcodeOf (b0 b1 : Byte) : Word := b0 ++ b1

/-- The high byte of a word, the one at the lower address (R55). -/
def firstByte (op : Word) : Byte := op.extractLsb' 8 8

/-- The low byte of a word, the one at the higher address (R55). -/
def secondByte (op : Word) : Byte := op.extractLsb' 0 8

/-- Decode the instruction at the head of a byte string, and give the rest of the string: a decoder
always consumes 2 bytes (R70). -/
def decodeBytes : List Byte → Except DecodeReject (Instr × List Byte)
  | b0 :: b1 :: rest => (decodeWord (opcodeOf b0 b1)).map (fun i => (i, rest))
  | _ => .error .tooShort

/-! ### The encoder, from the patterns of R74 -/

/-- The register field's nibble. -/
def regNibble (x : Reg) : Nibble := BitVec.ofFin x

/-- The format `g nnn` of R71. -/
def packNNN (g : Nibble) (nnn : Addr) : Word := g ++ nnn

/-- The format `g x kk` of R71. -/
def packXKK (g : Nibble) (x : Reg) (kk : Byte) : Word := g ++ regNibble x ++ kk

/-- The format `g x y n` of R71. -/
def packXYN (g : Nibble) (x y : Reg) (n : Nibble) : Word := g ++ regNibble x ++ regNibble y ++ n

/-- The word of an instruction (R74). -/
def encode : Instr → Word
  | .cls => 0x00E0
  | .ret => 0x00EE
  | .sys nnn => packNNN 0x0#4 nnn
  | .jp nnn => packNNN 0x1#4 nnn
  | .call nnn => packNNN 0x2#4 nnn
  | .seImm x kk => packXKK 0x3#4 x kk
  | .sneImm x kk => packXKK 0x4#4 x kk
  | .seReg x y => packXYN 0x5#4 x y 0x0#4
  | .ldImm x kk => packXKK 0x6#4 x kk
  | .addImm x kk => packXKK 0x7#4 x kk
  | .ldReg x y => packXYN 0x8#4 x y 0x0#4
  | .orReg x y => packXYN 0x8#4 x y 0x1#4
  | .andReg x y => packXYN 0x8#4 x y 0x2#4
  | .xorReg x y => packXYN 0x8#4 x y 0x3#4
  | .addReg x y => packXYN 0x8#4 x y 0x4#4
  | .subReg x y => packXYN 0x8#4 x y 0x5#4
  | .shr x y => packXYN 0x8#4 x y 0x6#4
  | .subn x y => packXYN 0x8#4 x y 0x7#4
  | .shl x y => packXYN 0x8#4 x y 0xE#4
  | .sneReg x y => packXYN 0x9#4 x y 0x0#4
  | .ldI nnn => packNNN 0xA#4 nnn
  | .jpV0 nnn => packNNN 0xB#4 nnn
  | .rnd x kk => packXKK 0xC#4 x kk
  | .drw x y n => packXYN 0xD#4 x y n
  | .skp x => packXKK 0xE#4 x 0x9E#8
  | .sknp x => packXKK 0xE#4 x 0xA1#8
  | .ldVxDt x => packXKK 0xF#4 x 0x07#8
  | .ldVxK x => packXKK 0xF#4 x 0x0A#8
  | .ldDtVx x => packXKK 0xF#4 x 0x15#8
  | .ldStVx x => packXKK 0xF#4 x 0x18#8
  | .addI x => packXKK 0xF#4 x 0x1E#8
  | .ldF x => packXKK 0xF#4 x 0x29#8
  | .ldB x => packXKK 0xF#4 x 0x33#8
  | .storeRegs x => packXKK 0xF#4 x 0x55#8
  | .loadRegs x => packXKK 0xF#4 x 0x65#8

/-- The two bytes of an instruction as memory holds them (R55). -/
def encodeBytes (i : Instr) : List Byte := [firstByte (encode i), secondByte (encode i)]

/-! ### The rows of R74 -/

/-- One row of R74: the word belongs to the row when its bits under `mask` are `pat` and, for the row
that says so, its x field is not 0. -/
structure OpcodeRow where
  mask : Word
  pat : Word
  xNonzero : Bool := false
  mnemonic : String
  deriving DecidableEq, Repr

/-- Whether a word belongs to a row (R74). -/
def OpcodeRow.covers (r : OpcodeRow) (op : Word) : Bool :=
  op &&& r.mask == r.pat && (!r.xNonzero || opX op != 0)

/-- The row an instruction is of (R74; the mnemonics are those of spec/opcode_table.json). -/
def Instr.row : Instr → OpcodeRow
  | .cls => { mask := 0xFFFF, pat := 0x00E0, mnemonic := "CLS" }
  | .ret => { mask := 0xFFFF, pat := 0x00EE, mnemonic := "RET" }
  | .sys _ => { mask := 0xF000, pat := 0x0000, xNonzero := true, mnemonic := "SYS_addr" }
  | .jp _ => { mask := 0xF000, pat := 0x1000, mnemonic := "JP_addr" }
  | .call _ => { mask := 0xF000, pat := 0x2000, mnemonic := "CALL_addr" }
  | .seImm _ _ => { mask := 0xF000, pat := 0x3000, mnemonic := "SE_Vx__byte" }
  | .sneImm _ _ => { mask := 0xF000, pat := 0x4000, mnemonic := "SNE_Vx__byte" }
  | .seReg _ _ => { mask := 0xF00F, pat := 0x5000, mnemonic := "SE_Vx__Vy" }
  | .ldImm _ _ => { mask := 0xF000, pat := 0x6000, mnemonic := "LD_Vx__byte" }
  | .addImm _ _ => { mask := 0xF000, pat := 0x7000, mnemonic := "ADD_Vx__byte" }
  | .ldReg _ _ => { mask := 0xF00F, pat := 0x8000, mnemonic := "LD_Vx__Vy" }
  | .orReg _ _ => { mask := 0xF00F, pat := 0x8001, mnemonic := "OR_Vx__Vy" }
  | .andReg _ _ => { mask := 0xF00F, pat := 0x8002, mnemonic := "AND_Vx__Vy" }
  | .xorReg _ _ => { mask := 0xF00F, pat := 0x8003, mnemonic := "XOR_Vx__Vy" }
  | .addReg _ _ => { mask := 0xF00F, pat := 0x8004, mnemonic := "ADD_Vx__Vy" }
  | .subReg _ _ => { mask := 0xF00F, pat := 0x8005, mnemonic := "SUB_Vx__Vy" }
  | .shr _ _ => { mask := 0xF00F, pat := 0x8006, mnemonic := "SHR_Vx____Vy" }
  | .subn _ _ => { mask := 0xF00F, pat := 0x8007, mnemonic := "SUBN_Vx__Vy" }
  | .shl _ _ => { mask := 0xF00F, pat := 0x800E, mnemonic := "SHL_Vx____Vy" }
  | .sneReg _ _ => { mask := 0xF00F, pat := 0x9000, mnemonic := "SNE_Vx__Vy" }
  | .ldI _ => { mask := 0xF000, pat := 0xA000, mnemonic := "LD_I__addr" }
  | .jpV0 _ => { mask := 0xF000, pat := 0xB000, mnemonic := "JP_V0__addr" }
  | .rnd _ _ => { mask := 0xF000, pat := 0xC000, mnemonic := "RND_Vx__byte" }
  | .drw _ _ _ => { mask := 0xF000, pat := 0xD000, mnemonic := "DRW_Vx__Vy__nibble" }
  | .skp _ => { mask := 0xF0FF, pat := 0xE09E, mnemonic := "SKP_Vx" }
  | .sknp _ => { mask := 0xF0FF, pat := 0xE0A1, mnemonic := "SKNP_Vx" }
  | .ldVxDt _ => { mask := 0xF0FF, pat := 0xF007, mnemonic := "LD_Vx__DT" }
  | .ldVxK _ => { mask := 0xF0FF, pat := 0xF00A, mnemonic := "LD_Vx__K" }
  | .ldDtVx _ => { mask := 0xF0FF, pat := 0xF015, mnemonic := "LD_DT__Vx" }
  | .ldStVx _ => { mask := 0xF0FF, pat := 0xF018, mnemonic := "LD_ST__Vx" }
  | .addI _ => { mask := 0xF0FF, pat := 0xF01E, mnemonic := "ADD_I__Vx" }
  | .ldF _ => { mask := 0xF0FF, pat := 0xF029, mnemonic := "LD_F__Vx" }
  | .ldB _ => { mask := 0xF0FF, pat := 0xF033, mnemonic := "LD_B__Vx" }
  | .storeRegs _ => { mask := 0xF0FF, pat := 0xF055, mnemonic := "LD__I___Vx" }
  | .loadRegs _ => { mask := 0xF0FF, pat := 0xF065, mnemonic := "LD_Vx___I" }

/-- The 35 rows of R74, in its order. -/
def opcodeTable : List OpcodeRow :=
  ([.cls, .ret, .sys 0x100, .jp 0, .call 0, .seImm 0 0, .sneImm 0 0, .seReg 0 0, .ldImm 0 0,
    .addImm 0 0, .ldReg 0 0, .orReg 0 0, .andReg 0 0, .xorReg 0 0, .addReg 0 0, .subReg 0 0,
    .shr 0 0, .subn 0 0, .shl 0 0, .sneReg 0 0, .ldI 0, .jpV0 0, .rnd 0 0, .drw 0 0 0, .skp 0,
    .sknp 0, .ldVxDt 0, .ldVxK 0, .ldDtVx 0, .ldStVx 0, .addI 0, .ldF 0, .ldB 0, .storeRegs 0,
    .loadRegs 0] : List Instr).map Instr.row

/-- The host's reading of an opcode-table word: an instruction is ONE 16-bit word, laid out as the
hardware stores it (high byte first, R55) and given to the byte decoder. -/
def decodeTableWord (nbits w : Nat) : Option Instr :=
  let op : Word := BitVec.ofNat 16 (w % 2 ^ nbits)
  match decodeBytes [firstByte op, secondByte op] with
  | .ok (i, _) => some i
  | .error _ => none

end Sys2Proof
end

