-- ==== Sys2Proof/Config.lean ====
section
/-! DEFINITION. The implementation parameters of 00_scope.md R6: those the hardware fixes, as numbers;
those it leaves OPEN, as constants with no body (FONT, the RNG oracle), so that nothing proved here
depends on a value of theirs. ROM_BASE, ROM and the input events are arguments of `Machine.boot`. -/

namespace Sys2Proof

/-- MEM_SIZE: bytes of memory, addresses 0 to 4095 (R6, R35). -/
abbrev memSize : Nat := 4096

/-- STACK_CAPACITY: the deepest nesting of CALL (R6, R103). -/
abbrev stackCapacity : Nat := 32

/-- FONT_REGION_SIZE: the font region is bytes 0x000..0x07F (R6, R52). -/
abbrev fontSize : Nat := 128

/-- GLYPH_BYTES: glyph d starts at byte d*5 of the font region (R6). -/
abbrev glyphBytes : Nat := 5

/-- The spec's default for the OPEN parameter ROM_BASE (R6, R53). DESIGN CHOICE, unsafe: the state
after reset uses the default; `Machine.boot` takes any base. Log entry 5. -/
def Config.romBase : Nat := 0x200

/-- FONT: the 128 bytes the font provider delivers (R6, R233). OPEN: the spec gives no glyph bytes and
forbids a model to fix them (93_implementation_defined.md), so this is a free value. Log entry 4. -/
opaque Config.font : Vector Byte fontSize

/-- RNG: the byte the random oracle answers to its n-th draw, counted from 0 (R6, R133). OPEN: the
oracle may answer any byte, so this is a free value. Log entry 3. -/
opaque Config.randomByte : Nat → Byte

end Sys2Proof
end

