-- ==== Sys2Proof/Machine/State.lean ====
section
/-! DEFINITION. The state of the block as plain data (10_state.md R20 to R41), the reasons a step can
stop, and the state after reset (R40). -/

namespace Sys2Proof.Machine

/-- The four kinds of fatal error (60_exceptions.md R200). -/
inductive ErrKind where
  /-- the fetch bound: pc > 4094 (R201) -/
  | programCounterOutOfBounds
  /-- an INVALID word (R202) -/
  | invalidInstruction
  /-- a CALL with SP = 32 before it (R203) -/
  | stackOverflow
  /-- a DRW whose sprite reaches past the memory (R204) -/
  | memoryOutOfBounds
  deriving DecidableEq, Repr

/-- The error record `(kind, pc, b0, b1)`; the bytes are absent where none were fetched (R206). -/
structure ErrRecord where
  kind : ErrKind
  pc : Word
  bytes : Option (Byte × Byte)
  deriving DecidableEq, Repr

/-- Whether the block still executes (R36). -/
inductive Status where
  | running
  | halted (err : ErrRecord)
  | stopped
  deriving DecidableEq, Repr

/-- Whose step comes next in the schedule (R60, R98): the input agent's, between two ticks; the tick
agent's, with the key-downs that fall inside the tick, `early` before the instruction's keypad section
and `late` after it and before the end-of-tick clear; or the quit, which the block observes between ticks
(R97). The model's own type: log entry 2. -/
inductive AgentStep where
  | keyDown (k : Key)
  | tick (early late : List Key)
  | quit
  deriving DecidableEq, Repr

/-- Memory as the listed bytes, in one canonical form (`Memory.wf` in Machine/Ops.lean): an address
that is not listed reads as `Memory.unlisted` says. -/
abbrev Memory := List Host.Cell

/-- The state: everything R20 lists, and the model's own two fields `draws` and `inputs`. -/
@[ext]
structure State where
  /-- V[0..15] (R21) -/
  v : Vector Byte 16
  /-- I (R28) -/
  i : Word
  /-- pc (R25) -/
  pc : Word
  /-- SP (R29) -/
  sp : Byte
  /-- Stack[0..32] (R30) -/
  stack : Vector Word 33
  /-- DT (R31) -/
  dt : Byte
  /-- ST (R32) -/
  st : Byte
  /-- Mem[0..4095] (R35) -/
  mem : Memory
  /-- FB[0..31] (R33) -/
  fb : Vector Row 32
  /-- KEY[0..15], each flag a byte (R34) -/
  key : Vector Byte 16
  /-- status (R36) -/
  status : Status
  /-- the model's own: how many bytes the RNG oracle has answered (R133, log entry 3) -/
  draws : Nat
  /-- the model's own: the schedule of the agents' coming steps; an empty list is an input agent that does
  nothing any more (R41, R60, log entries 1 and 2) -/
  inputs : List AgentStep
  deriving DecidableEq, Repr

/-- Why a step stops without a next state. -/
inductive Fault where
  /-- Raised by `step` in a Halted state: only Running admits a tick (R36, R207). Safe: the block does
  nothing more. Log entry 7. -/
  | halted (err : ErrRecord)
  /-- Raised by `step` in a Stopped state: only Running admits a tick (R36, R97). Safe. Log entry 7. -/
  | stopped
  /-- Raised by RET with SP > 32, a stack cell that does not exist (R29, R30). No run reaches it. Safe.
  Log entry 8. -/
  | noStackCell
  deriving DecidableEq, Repr

/-- What the model refuses. -/
inductive Refusal where
  /-- Raised by an arm of `exec` whose instruction has no meaning yet; no arm does. Safe. -/
  | notModelled (mnemonic : String)
  /-- Raised by `boot`: the font provider failed, or did not deliver 128 bytes (R233). Safe. -/
  | fontRejected
  /-- Raised by `boot`: ROM_BASE > 4094 (R234). Safe. -/
  | romBaseOutOfRange
  /-- Raised by `boot`: ROM_BASE + len(ROM) > 4096 (R234). Safe. -/
  | romDoesNotFit
  deriving DecidableEq, Repr

/-- The outcome of an instruction or of a step. -/
abbrev Result := Host.Outcome State Fault Refusal

/-- The state after reset (R40, R231): memory lists nothing, so it reads as FONT and zeros; ROM_BASE is
its default (log entry 5); no ROM is loaded (log entry 6); the model's own fields are empty (log
entries 1 and 3). -/
def State.reset : State where
  v := Vector.replicate 16 0
  i := 0
  pc := BitVec.ofNat 16 Config.romBase
  sp := 0
  stack := Vector.replicate 33 0
  dt := 0
  st := 0
  mem := []
  fb := Vector.replicate 32 0
  key := Vector.replicate 16 0
  status := .running
  draws := 0
  inputs := []

end Sys2Proof.Machine
end

