-- ==== Sys2Proof/Machine/Ops.lean ====
section
/-! DEFINITION. The named operations over memory, registers, keypad and status that the meanings share;
raising a fatal error as one operation (60_exceptions.md R205); the parts of a tick around its
instruction (40_execution_cycle.md R95). -/

namespace Sys2Proof.Machine

/-! ### Memory (20_memory.md) -/

/-- What an address that is not listed reads as: the reset contents, FONT in the font region and 0
elsewhere (R40, R52; log entry 4). -/
def Memory.unlisted (a : Nat) : Byte :=
  if h : a < fontSize then Config.font[a] else 0

/-- MemRead(a, 1) (R10): the byte at address a. Every caller has checked a < 4096 (log entry 10). -/
def Memory.read : Memory → Nat → Byte
  | [], a => Memory.unlisted a
  | (a', b) :: m, a => if a' = a then b else Memory.read m a

/-- Take an address off the list. -/
def Memory.remove : Memory → Nat → Memory
  | [], _ => []
  | (a', b) :: m, a => if a' = a then Memory.remove m a else (a', b) :: Memory.remove m a

/-- List a byte at an address, addresses rising. -/
def Memory.put : Memory → Nat → Byte → Memory
  | [], a, b => [(a, b)]
  | (a', b') :: m, a, b =>
    if a < a' then (a, b) :: (a', b') :: m
    else if a = a' then (a, b) :: m
    else (a', b') :: Memory.put m a b

/-- MemWrite(a, 1, b) (R10): store b at address a and keep the canonical form. Every caller has checked
a < 4096 (log entry 10). -/
def Memory.write (m : Memory) (a : Nat) (b : Byte) : Memory :=
  if b = Memory.unlisted a then Memory.remove m a else Memory.put m a b

/-- The canonical form: addresses strictly rising and below 4096, no byte equal to what its address
reads as unlisted. -/
def Memory.wf (m : Memory) : Bool :=
  decide (m.Pairwise (fun p q => p.1 < q.1)) &&
    m.all (fun c => decide (c.1 < memSize) && c.2 != Memory.unlisted c.1)

/-- Store bytes from an address upward, each write checked against the memory's end and dropped beyond
it. This is the loop of R143, and the one of R144 and R56: `a in I .. min(I + 16, MEM_SIZE)`. -/
def Memory.storeBounded : Memory → Nat → List Byte → Memory
  | m, _, [] => m
  | m, a, b :: bs => Memory.storeBounded (if a < memSize then Memory.write m a b else m) (a + 1) bs

/-- The n bytes from an address upward. -/
def Memory.readBytes (m : Memory) (a : Nat) : Nat → List Byte
  | 0 => []
  | n + 1 => Memory.read m a :: Memory.readBytes m (a + 1) n

/-! ### Registers: one accessor and one update each -/

/-- V[x] (R10). -/
def State.getV (s : State) (x : Reg) : Byte := s.v[x.val]

/-- V[x] <- b (R10, R24: takes effect as written, VF too). -/
def State.setV (s : State) (x : Reg) (b : Byte) : State := { s with v := s.v.set x.val b }

/-- All of V0..VF at once. -/
def State.setRegs (s : State) (v : Vector Byte 16) : State := { s with v := v }

/-- I <- w. -/
def State.setI (s : State) (w : Word) : State := { s with i := w }

/-- pc <- w. -/
def State.setPc (s : State) (w : Word) : State := { s with pc := w }

/-- SP <- b. -/
def State.setSp (s : State) (b : Byte) : State := { s with sp := b }

/-- The stack array. -/
def State.setStack (s : State) (k : Vector Word 33) : State := { s with stack := k }

/-- DT <- b. -/
def State.setDt (s : State) (b : Byte) : State := { s with dt := b }

/-- ST <- b. -/
def State.setSt (s : State) (b : Byte) : State := { s with st := b }

/-- The memory. -/
def State.setMem (s : State) (m : Memory) : State := { s with mem := m }

/-- The framebuffer, one critical section (R60). -/
def State.setFb (s : State) (f : Vector Row 32) : State := { s with fb := f }

/-- The keypad flags. -/
def State.setKey (s : State) (k : Vector Byte 16) : State := { s with key := k }

/-- status <- t. -/
def State.setStatus (s : State) (t : Status) : State := { s with status := t }

/-- The model's count of RNG draws. -/
def State.setDraws (s : State) (n : Nat) : State := { s with draws := n }

/-- The model's schedule of inputs. -/
def State.setInputs (s : State) (l : List AgentStep) : State := { s with inputs := l }

/-! ### pc (R94): every sum is taken mod 2^16 -/

/-- pc <- pc + 2. -/
def State.advance (s : State) : State := s.setPc (s.pc + 2)

/-- A skip: pc <- pc + 4 if taken, else pc + 2 (R14, R94). -/
def State.skipIf (s : State) (taken : Bool) : State := s.setPc (s.pc + if taken then 4 else 2)

/-! ### Fatal errors (R205, R206) -/

/-- Raise a fatal error: the state is the one before the instruction, and status becomes Halted(err)
with the instruction's own address and bytes (R205, R206). There is no return from it (R207). -/
def State.raise (s : State) (kind : ErrKind) (bytes : Option (Byte × Byte)) : State :=
  s.setStatus (.halted { kind := kind, pc := s.pc, bytes := bytes })

/-- Raise a fatal error from inside an instruction: the bytes are those of its opcode, latched at fetch
(R63, R206; log entry 9). -/
def State.raiseFrom (s : State) (ins : Instr) (kind : ErrKind) : State :=
  s.raise kind (some (firstByte (encode ins), secondByte (encode ins)))

/-! ### The call stack (R30, R103, R104) -/

/-- SP <- SP + 1; Stack[SP] <- w. `h`: the new SP is a cell of the array. -/
def State.push (s : State) (w : Word) (h : s.sp.toNat < stackCapacity) : State :=
  (s.setStack (s.stack.set (s.sp.toNat + 1) w (Nat.succ_lt_succ h))).setSp (s.sp + 1)

/-- `if SP > 0 then SP <- SP - 1` (R104). -/
def State.popSp (s : State) : State := if s.sp = 0 then s else s.setSp (s.sp - 1)

/-! ### Keypad (R34, R182, R186) -/

/-- KEY[k] != 0 (R34). -/
def State.keyDown (s : State) (k : Key) : Bool := s.key[k.val] != 0

/-- The first pressed key of the flags listed upward from key k (R182). -/
def firstPressed : List Byte → Nat → Option Nat
  | [], _ => none
  | b :: bs, k => if b = 0 then firstPressed bs (k + 1) else some k

/-- A key-down event: KEY[k] <- 1 (R186). -/
def State.pressKey (s : State) (k : Key) : State := s.setKey (s.key.set k.val 1)

/-- Key-down events in the order they land. -/
def State.pressKeys (s : State) (ks : List Key) : State := ks.foldl State.pressKey s

/-- Clear all 16 flags (R95). -/
def State.clearKeys (s : State) : State := s.setKey (Vector.replicate 16 0)

/-! ### The RNG oracle (R133) -/

/-- draw_rnd(): the oracle's next byte (R11). -/
def State.rndByte (s : State) : Byte := Config.randomByte s.draws

/-- The state after the draw. -/
def State.afterDraw (s : State) : State := s.setDraws (s.draws + 1)

/-! ### The parts of a tick (R95, R97) -/

/-- A timer's step: down by 1, never below 0 (R95, R187). -/
def timerStep (t : Byte) : Byte := if t = 0 then 0 else t - 1

/-- Whose step comes next; a schedule that has run out holds only ticks with no key-down around them. -/
def State.nextInput (s : State) : AgentStep := s.inputs.headD (.tick [] [])

/-- The schedule's entry is used up and its key-downs land (R186). -/
def State.keysLand (s : State) (ks : List Key) : State :=
  (s.setInputs s.inputs.tail).pressKeys ks

/-- The end of a tick: the late key-downs land; then, unless the instruction raised a fatal error (R96),
the keypad is cleared and the timers step (R95). -/
def State.endTick (s : State) (late : List Key) : State :=
  let t := s.pressKeys late
  match s.status with
  | .running => (t.clearKeys.setDt (timerStep t.dt)).setSt (timerStep t.st)
  | _ => t

/-- The quit is observed between ticks: the state is as it was, Stopped (R97). -/
def State.stop (s : State) : State := (s.setInputs s.inputs.tail).setStatus .stopped

/-- Fetch (R92): none when pc > MEM_SIZE - 2, else the bytes at pc and pc + 1. -/
def State.fetch (s : State) : Option (Byte × Byte) :=
  if memSize - 2 < s.pc.toNat then none
  else some (s.mem.read s.pc.toNat, s.mem.read (s.pc.toNat + 1))

/-! ### Placing one instruction, for the host -/

/-- Whether an entry of the schedule is a tick. -/
def AgentStep.isTick : AgentStep → Bool
  | .tick _ _ => true
  | .keyDown _ | .quit => false

/-- A state whose next step is a tick that fetches: Running, a tick next in the schedule, pc in range. A
state that is so already is not changed (log entry 16). -/
def State.ready (s : State) : State :=
  let s := s.setStatus .running
  let s := s.setInputs (s.inputs.dropWhile fun e => !e.isTick)
  if memSize - 2 < s.pc.toNat then s.setPc (BitVec.ofNat 16 Config.romBase) else s

/-- Store an opcode where the next fetch reads it, high byte first (R55). -/
def State.placeWord (s : State) (op : Word) : State :=
  s.setMem ((s.mem.write s.pc.toNat (firstByte op)).write (s.pc.toNat + 1) (secondByte op))

end Sys2Proof.Machine
end

