-- ==== Sys2Proof/Machine/Operands.lean ====
section
/-! DEFINITION. The operand forms (30_encoding.md R72, 43_index_memory.md R146): fields zero-extended,
addresses based on I, the key index, the sprite's column and rows, the decimal digits, the glyph
address, and the placed sprite row. -/

namespace Sys2Proof.Machine

/-- A 12-bit address in a 16-bit register: zext_16(nnn) (R72). -/
def addrWord (nnn : Addr) : Word := nnn.zeroExtend 16

/-- A byte in a 16-bit register: zext_16(b) (R9). -/
def byteWord (b : Byte) : Word := b.zeroExtend 16

/-- The base of every data access, I as a number: `I + j` is computed without wrapping (R143, R146). -/
def State.base (s : State) : Nat := s.i.toNat

/-- The key index V[x] & 0xF (R180, R181). -/
def keyIndex (b : Byte) : Key := (b.extractLsb' 0 4).toFin

/-- The sprite's left column V[x] mod 64 (R166, D6). -/
def spriteColumn (b : Byte) : Nat := b.toNat % 64

/-- The framebuffer row of sprite row i: (V[y] + i) mod 32, the whole sum (R166, D6). -/
def spriteRow (cy i : Nat) : Fin 32 := ⟨(cy + i) % 32, Nat.mod_lt _ (by decide)⟩

/-- The decimal digits of a byte: hundreds, tens, ones (R143). -/
def bcdDigits (b : Byte) : List Byte :=
  [BitVec.ofNat 8 (b.toNat / 100), BitVec.ofNat 8 (b.toNat / 10 % 10), BitVec.ofNat 8 (b.toNat % 10)]

/-- The glyph address zext_16(V[x]) * 5, the whole of V[x] (R142). -/
def glyphAddr (b : Byte) : Word := BitVec.ofNat 16 (b.toNat * glyphBytes)

/-- Whether the n sprite bytes from I upward reach past the memory: `n > 0 and I + n - 1 >= MEM_SIZE`
(R166, R204). -/
def spriteOutOfBounds (base n : Nat) : Bool := decide (0 < n ∧ memSize ≤ base + n - 1)

/-- The row mask of a sprite byte with its leftmost pixel at column x:
`place(b, x) = rotr64(zext_64(b) << 56, x)` (R164). -/
def place (b : Byte) (x : Nat) : Row := (b.zeroExtend 64 <<< 56).rotateRight x

/-- The registers a block load leaves: V[r] is the byte at I + r where that is an address, else its old
value (R145). -/
def loadedRegs (s : State) : Vector Byte 16 :=
  s.v.mapIdx fun r old => if s.base + r < memSize then s.mem.read (s.base + r) else old

end Sys2Proof.Machine
end

