-- ==== Sys2Proof/Machine/Flags.lean ====
section
/-! DEFINITION. Arithmetic results and every value VF takes as a flag (42_alu.md R120, R121, R128 to
R132; 44_display.md R165). VF is the only flag (10_state.md R38). -/

namespace Sys2Proof.Machine

/-- A flag as the byte written to VF: 1 or 0. -/
def flagByte (c : Bool) : Byte := if c then 1 else 0

/-- The exact sum of two bytes, 0..510 (R128). -/
def wideSum (a b : Byte) : Nat := a.toNat + b.toNat

/-- (a + b) mod 2^8 (R120). -/
def sumByte (a b : Byte) : Byte := BitVec.ofNat 8 (wideSum a b)

/-- (0x100 + a - b) mod 2^8 (R120, R129). -/
def diffByte (a b : Byte) : Byte := BitVec.ofNat 8 (0x100 + a.toNat - b.toNat)

/-- The carry of ADD Vx, Vy: the sum exceeds 255 (R128). -/
def carryFlag (a b : Byte) : Byte := flagByte (decide (255 < wideSum a b))

/-- The flag of SUB (a the minuend) and SUBN (b the minuend there): strictly greater (R129, R131). -/
def greaterFlag (a b : Byte) : Byte := flagByte (decide (b.toNat < a.toNat))

/-- The flag of SHR: the old bit 0 (R130). -/
def shrFlag (a : Byte) : Byte := (a >>> 0) &&& 1

/-- The flag of SHL: the old bit 3, not bit 7 (R132). -/
def shlFlag (a : Byte) : Byte := (a >>> 3) &&& 1

/-- The collision test of one framebuffer row: `((old ^ m) & old) != old` (R165). -/
def collides (old m : Row) : Bool := ((old ^^^ m) &&& old) != old

end Sys2Proof.Machine
end

