-- ==== Sys2Proof/Machine/Alu.lean ====
section
/-! DEFINITION. Register and ALU instructions (42_alu.md R120 to R134). -/

namespace Sys2Proof.Machine

/-- Write a result and go on: no flag. -/
def State.result (s : State) (x : Reg) (r : Byte) : State := (s.setV x r).advance

/-- Write a result, then VF, and go on; the operands were read before (R121). -/
def State.resultFlag (s : State) (x : Reg) (r f : Byte) : State :=
  ((s.setV x r).setV flagReg f).advance

/-- LD Vx, byte (R122). -/
def execLdImm (x : Reg) (kk : Byte) (s : State) : Result := .next (s.result x kk)

/-- ADD Vx, byte: wraps, no flag (R123). -/
def execAddImm (x : Reg) (kk : Byte) (s : State) : Result :=
  .next (s.result x (sumByte (s.getV x) kk))

/-- LD Vx, Vy (R124). -/
def execLdReg (x y : Reg) (s : State) : Result := .next (s.result x (s.getV y))

/-- OR Vx, Vy (R125). -/
def execOrReg (x y : Reg) (s : State) : Result := .next (s.result x (s.getV x ||| s.getV y))

/-- AND Vx, Vy (R126). -/
def execAndReg (x y : Reg) (s : State) : Result := .next (s.result x (s.getV x &&& s.getV y))

/-- XOR Vx, Vy (R127). -/
def execXorReg (x y : Reg) (s : State) : Result := .next (s.result x (s.getV x ^^^ s.getV y))

/-- ADD Vx, Vy: VF is the carry (R128). -/
def execAddReg (x y : Reg) (s : State) : Result :=
  .next (s.resultFlag x (sumByte (s.getV x) (s.getV y)) (carryFlag (s.getV x) (s.getV y)))

/-- SUB Vx, Vy: VF is Vx > Vy, strict (R129). -/
def execSubReg (x y : Reg) (s : State) : Result :=
  .next (s.resultFlag x (diffByte (s.getV x) (s.getV y)) (greaterFlag (s.getV x) (s.getV y)))

/-- SHR Vx: the y field is ignored (R130). -/
def execShr (x _y : Reg) (s : State) : Result :=
  .next (s.resultFlag x (s.getV x >>> 1) (shrFlag (s.getV x)))

/-- SUBN Vx, Vy: SUB with its operands swapped, flag included (R131). -/
def execSubn (x y : Reg) (s : State) : Result :=
  .next (s.resultFlag x (diffByte (s.getV y) (s.getV x)) (greaterFlag (s.getV y) (s.getV x)))

/-- SHL Vx: VF is the old bit 3; the y field is ignored (R132). -/
def execShl (x _y : Reg) (s : State) : Result :=
  .next (s.resultFlag x (s.getV x <<< 1) (shlFlag (s.getV x)))

/-- RND Vx, byte: one fresh draw, masked with kk (R133). -/
def execRnd (x : Reg) (kk : Byte) (s : State) : Result :=
  .next (s.afterDraw.result x (s.rndByte &&& kk))

end Sys2Proof.Machine
end

