-- ==== Sys2Proof/Machine/ControlFlow.lean ====
section
/-! DEFINITION. Jumps, call, return and skips (41_control_flow.md R100 to R110). -/

namespace Sys2Proof.Machine

/-- SYS addr: a jump (R101). -/
def execSys (nnn : Addr) (s : State) : Result := .next (s.setPc (addrWord nnn))

/-- JP addr (R102). -/
def execJp (nnn : Addr) (s : State) : Result := .next (s.setPc (addrWord nnn))

/-- CALL addr: StackOverflow when SP + 1 > 32, checked before any write; else push the CALL's own
address and jump (R103). -/
def execCall (nnn : Addr) (s : State) : Result :=
  if h : s.sp.toNat < stackCapacity then .next ((s.push s.pc h).setPc (addrWord nnn))
  else .next (s.raiseFrom (.call nnn) .stackOverflow)

/-- RET: pc <- Stack[SP] + 2, SP down by 1 unless 0; SP = 0 is no error (R104). SP > 32 names no cell:
log entry 8. -/
def execRet (s : State) : Result :=
  if h : s.sp.toNat < 33 then .next (s.popSp.setPc (s.stack[s.sp.toNat] + 2))
  else .fault .noStackCell

/-- SE Vx, byte (R105). -/
def execSeImm (x : Reg) (kk : Byte) (s : State) : Result := .next (s.skipIf (s.getV x == kk))

/-- SNE Vx, byte (R106). -/
def execSneImm (x : Reg) (kk : Byte) (s : State) : Result := .next (s.skipIf (s.getV x != kk))

/-- SE Vx, Vy (R107). -/
def execSeReg (x y : Reg) (s : State) : Result := .next (s.skipIf (s.getV x == s.getV y))

/-- SNE Vx, Vy (R108). -/
def execSneReg (x y : Reg) (s : State) : Result := .next (s.skipIf (s.getV x != s.getV y))

/-- JP V0, addr: the sum is not masked (R109). -/
def execJpV0 (nnn : Addr) (s : State) : Result :=
  .next (s.setPc (addrWord nnn + byteWord (s.getV 0)))

end Sys2Proof.Machine
end

