-- ==== Sys2Proof/Machine/Display.lean ====
section
/-! DEFINITION. The framebuffer and the sprite renderer (44_display.md R160 to R169). -/

namespace Sys2Proof.Machine

/-- CLS: every row to 0, one section; VF unchanged (R163). -/
def execCls (s : State) : Result := .next (s.setFb (Vector.replicate 32 0)).advance

/-- The loop of R166 over the sprite bytes that are left, the next one for row (cy + i) mod 32: the
framebuffer and whether a row collided so far. -/
def drawRows (cx cy : Nat) : List Byte → Nat → Vector Row 32 × Bool → Vector Row 32 × Bool
  | [], _, acc => acc
  | b :: bs, i, (fb, hit) =>
    let r := spriteRow cy i
    let old := fb[r.val]
    let m := place b cx
    drawRows cx cy bs (i + 1) (fb.set r.val (old ^^^ m), hit || collides old m)

/-- What a DRW of these bytes makes of a framebuffer: the new one, and whether any row collided. -/
def drawSprite (cx cy : Nat) (bytes : List Byte) (fb : Vector Row 32) : Vector Row 32 × Bool :=
  drawRows cx cy bytes 0 (fb, false)

/-- The drawing a DRW does in a state: its sprite bytes are those from I upward (R166). -/
def drawnBy (x y : Reg) (n : Nibble) (s : State) : Vector Row 32 × Bool :=
  drawSprite (spriteColumn (s.getV x)) (s.getV y).toNat (s.mem.readBytes s.base n.toNat) s.fb

/-- DRW Vx, Vy, nibble: MemoryOutOfBounds before anything is written; else the rows are drawn and VF is
the collision flag, written last (R166). -/
def execDrw (x y : Reg) (n : Nibble) (s : State) : Result :=
  if spriteOutOfBounds s.base n.toNat then .next (s.raiseFrom (.drw x y n) .memoryOutOfBounds)
  else
    let d := drawnBy x y n s
    .next ((s.setFb d.1).setV flagReg (flagByte d.2)).advance

end Sys2Proof.Machine
end

