-- ==== Sys2Proof/Machine/IndexMemory.lean ====
section
/-! DEFINITION. Index register and memory instructions (43_index_memory.md R140 to R146). -/

namespace Sys2Proof.Machine

/-- LD I, addr (R140). -/
def execLdI (nnn : Addr) (s : State) : Result := .next (s.setI (addrWord nnn)).advance

/-- ADD I, Vx: mod 2^16, no flag (R141). -/
def execAddI (x : Reg) (s : State) : Result :=
  .next (s.setI (s.i + byteWord (s.getV x))).advance

/-- LD F, Vx: I <- Vx * 5 (R142). -/
def execLdF (x : Reg) (s : State) : Result := .next (s.setI (glyphAddr (s.getV x))).advance

/-- LD B, Vx: three decimal digits from I upward, each write checked (R143). -/
def execLdB (x : Reg) (s : State) : Result :=
  .next (s.setMem (s.mem.storeBounded s.base (bcdDigits (s.getV x)))).advance

/-- LD [I], Vx: V0..VF from I upward, as far as the memory goes; x is ignored, I unchanged (R144). -/
def execStoreRegs (_x : Reg) (s : State) : Result :=
  .next (s.setMem (s.mem.storeBounded s.base s.v.toList)).advance

/-- LD Vx, [I]: V0..VF from I upward, as far as the memory goes; x is ignored, I unchanged (R145). -/
def execLoadRegs (_x : Reg) (s : State) : Result := .next (s.setRegs (loadedRegs s)).advance

end Sys2Proof.Machine
end

