-- ==== Sys2Proof/Machine/KeypadTimers.lean ====
section
/-! DEFINITION. Keypad and timer instructions (45_keypad_timers.md R180 to R185). -/

namespace Sys2Proof.Machine

/-- SKP Vx (R180). -/
def execSkp (x : Reg) (s : State) : Result := .next (s.skipIf (s.keyDown (keyIndex (s.getV x))))

/-- SKNP Vx (R181). -/
def execSknp (x : Reg) (s : State) : Result := .next (s.skipIf (!s.keyDown (keyIndex (s.getV x))))

/-- LD Vx, K: the lowest pressed key, else pc stays and the instruction runs again next tick (R182). -/
def execLdVxK (x : Reg) (s : State) : Result :=
  match firstPressed s.key.toList 0 with
  | some k => .next (s.setV x (BitVec.ofNat 8 k)).advance
  | none => .next (s.setPc s.pc)

/-- LD Vx, DT (R183). -/
def execLdVxDt (x : Reg) (s : State) : Result := .next (s.setV x s.dt).advance

/-- LD DT, Vx (R184). -/
def execLdDtVx (x : Reg) (s : State) : Result := .next (s.setDt (s.getV x)).advance

/-- LD ST, Vx (R185). -/
def execLdStVx (x : Reg) (s : State) : Result := .next (s.setSt (s.getV x)).advance

end Sys2Proof.Machine
end

