-- ==== Sys2Proof/Machine/Step.lean ====
section
/-! DEFINITION. One step is the next of the schedule: a tick, or a key-down or quit between two ticks
(40_execution_cycle.md R90, R95 to R98). -/

namespace Sys2Proof.Machine

/-- execute_one() (R90): fetch, decode, perform, with the checks in the order of R208. -/
def executeOne (s : State) : Result :=
  match s.fetch with
  | none => .next (s.raise .programCounterOutOfBounds none)
  | some (b0, b1) =>
    match decodeWord (opcodeOf b0 b1) with
    | .error _ => .next (s.raise .invalidInstruction (some (b0, b1)))
    | .ok ins => exec ins s

/-- tick() with the input agent's key-downs around it (R95, R96, R98). -/
def tick (early late : List Key) (s : State) : Result :=
  match executeOne (s.keysLand early) with
  | .next t => .next (t.endTick late)
  | .fault f => .fault f
  | .refused r => .refused r

/-- One step, the next of the schedule (R98): a key-down between ticks lands (R186), a tick runs, or the
quit is observed (R97). Only Running admits a tick (R36), and the run is over otherwise (R99). -/
def step (s : State) : Host.Outcome State Fault Refusal :=
  match s.status with
  | .halted err => .fault (.halted err)
  | .stopped => .fault .stopped
  | .running =>
    match s.nextInput with
    | .quit => .next s.stop
    | .keyDown k => .next (s.keysLand [k])
    | .tick early late => tick early late s

/-- The state whose next step fetches and runs the opcode-table word w of nbits bits. -/
def State.withFetchWord (s : State) (nbits w : Nat) : State :=
  s.ready.placeWord (BitVec.ofNat 16 (w % 2 ^ nbits))

end Sys2Proof.Machine
end

