-- ==== Sys2Proof/Machine/Boot.lean ====
section
/-! DEFINITION. Reset with its parameters: creating the VM (70_reset_and_hazards.md R230 to R234). -/

namespace Sys2Proof.Machine

/-- The boot sequence of R232 for any FONT, ROM_BASE, ROM and input schedule. `font = none` is a font
provider that failed. The font is written to 0x000..0x07F, then the ROM from ROM_BASE, so the ROM wins
where they overlap; every other byte is 0 (`State.reset` lists nothing, and all 128 bytes it reads as
`Config.font` are written here). The two bounds are those of R234. -/
def boot (font : Option (List Byte)) (romBase : Nat) (rom : List Byte) (inputs : List AgentStep) :
    Result :=
  match font with
  | none => .refused .fontRejected
  | some f =>
    if f.length ≠ fontSize then .refused .fontRejected
    else if memSize - 2 < romBase then .refused .romBaseOutOfRange
    else if memSize < romBase + rom.length then .refused .romDoesNotFit
    else
      let mem := (State.reset.mem.storeBounded 0 f).storeBounded romBase rom
      .next (((State.reset.setMem mem).setPc (BitVec.ofNat 16 romBase)).setInputs inputs)

end Sys2Proof.Machine
end

