-- ==== Sys2Proof/Machine/Ports.lean ====
section
/-! DEFINITION. The block's output ports (60_exceptions.md R213): what the render agent, the display sink
and the caller read. Reading changes no state (44_display.md R168), so each is a function of a state
between two steps, which are the moments at which the sink may read (D29); log entry 12. -/

namespace Sys2Proof.Machine

/-- The framebuffer snapshot: FB[0..31] copied in one section (R168). -/
def State.snapshot (s : State) : Vector Row 32 := s.fb

/-- The pixel at row r, column c: bit 63 - c of FB[r] (R33, R161). -/
def State.pixel (s : State) (r : Fin 32) (c : Fin 64) : Bool := s.fb[r.val].getLsbD (63 - c.val)

/-- The timer state exported to the display sink: DT and ST (R213, D28). -/
def State.timerState (s : State) : Byte × Byte := (s.dt, s.st)

/-- The latched keys exported to the display sink (R213). -/
def State.latchedKeys (s : State) : Vector Byte 16 := s.key

/-- The error output to the caller: the record of a halted block (R206, R217). -/
def State.errorOutput (s : State) : Option ErrRecord :=
  match s.status with
  | .halted err => some err
  | _ => none

/-- The spec's numeric cause codes (R200, D25). -/
def ErrKind.code : ErrKind → Nat
  | .programCounterOutOfBounds => 1
  | .invalidInstruction => 2
  | .stackOverflow => 3
  | .memoryOutOfBounds => 4

end Sys2Proof.Machine
end

