-- ==== Sys2Proof/Safety.lean ====
section
/-! DEFINITION. What a safe run is, in the terms claims use: when a step is a tick, what every state of
a run satisfies, and which parts of the state an instruction may change. -/

namespace Sys2Proof.Machine

/-- The next step is a tick, with these key-downs around it (R36, R95, R97). -/
def State.Ticks (s : State) (early late : List Key) : Prop :=
  s.status = .running ∧ s.nextInput = .tick early late

/-- The next tick fetches and decodes this instruction (R90, R92, R93). -/
def State.Fetches (s : State) (i : Instr) : Prop :=
  s.pc.toNat ≤ 4094 ∧
    decodeWord (opcodeOf (s.mem.read s.pc.toNat) (s.mem.read (s.pc.toNat + 1))) = .ok i

/-- What holds of every state of a run. -/
structure State.Inv (s : State) : Prop where
  /-- the memory list is in its canonical form, every address below 4096 (R50) -/
  memCanonical : s.mem.wf = true
  /-- SP always holds a value 0..32 (R29) -/
  spBound : s.sp.toNat ≤ 32
  /-- cell 0 always holds its reset value (R30) -/
  stackZero : s.stack[0] = 0
  /-- a return address is an address an instruction was fetched from (R103, R25) -/
  stackBound : ∀ c : Fin 33, s.stack[c.val].toNat ≤ 4094
  /-- the largest pc an instruction can write is 0x10FE (R27) -/
  pcBound : s.pc.toNat ≤ 0x10FE
  /-- a keypad flag holds 0 or 1 (R34) -/
  keyFlags : ∀ k : Key, s.key[k.val] = 0 ∨ s.key[k.val] = 1

/-- Whether an instruction may write V[r] (R22, R23): its destination x, VF as a flag, every register
for a block load. -/
def mayWriteReg : Instr → Reg → Bool
  | .ldImm x _, r | .addImm x _, r | .ldReg x _, r | .orReg x _, r | .andReg x _, r
  | .xorReg x _, r | .rnd x _, r | .ldVxDt x, r | .ldVxK x, r => r == x
  | .addReg x _, r | .subReg x _, r | .shr x _, r | .subn x _, r | .shl x _, r =>
    r == x || r == flagReg
  | .drw _ _ _, r => r == flagReg
  | .loadRegs _, _ => true
  | .cls, _ | .ret, _ | .sys _, _ | .jp _, _ | .call _, _ | .seImm _ _, _ | .sneImm _ _, _
  | .seReg _ _, _ | .sneReg _ _, _ | .ldI _, _ | .jpV0 _, _ | .skp _, _ | .sknp _, _
  | .ldDtVx _, _ | .ldStVx _, _ | .addI _, _ | .ldF _, _ | .ldB _, _ | .storeRegs _, _ => false

/-- How many bytes from I upward an instruction may store: the digits of Fx33, the registers of Fx55,
none otherwise (R52, R54). -/
def storeLength : Instr → Nat
  | .ldB _ => 3
  | .storeRegs _ => 16
  | .cls | .ret | .sys _ | .jp _ | .call _ | .seImm _ _ | .sneImm _ _ | .seReg _ _ | .ldImm _ _
  | .addImm _ _ | .ldReg _ _ | .orReg _ _ | .andReg _ _ | .xorReg _ _ | .addReg _ _
  | .subReg _ _ | .shr _ _ | .subn _ _ | .shl _ _ | .sneReg _ _ | .ldI _ | .jpV0 _ | .rnd _ _
  | .drw _ _ _ | .skp _ | .sknp _ | .ldVxDt _ | .ldVxK _ | .ldDtVx _ | .ldStVx _ | .addI _
  | .ldF _ | .loadRegs _ => 0

end Sys2Proof.Machine
end

