-- ==== Sys2Proof/Certificates/Slice0/Obligations.lean ====
section
/-! DEFINITION. The statements about the model, one definition each; OBLIGATIONS.json lists them. "D<n>"
is a decision of 92_eei_decisions.md that the statement's rules rest on: the spec's own choice, where
its source is silent. -/

namespace Sys2Proof.Claims

open Sys2Proof Sys2Proof.Machine

/-- The words of R202, by their fields as numbers. -/
def InvalidWord (op : Word) : Prop :=
  let w := op.toNat
  let g := w / 0x1000
  let n := w % 0x10
  let kk := w % 0x100
  (w < 0x100 ∧ w ≠ 0x00E0 ∧ w ≠ 0x00EE) ∨
  ((g = 5 ∨ g = 9) ∧ n ≠ 0) ∨
  (g = 8 ∧ (8 ≤ n ∧ n ≤ 13 ∨ n = 15)) ∨
  (g = 14 ∧ kk ≠ 0x9E ∧ kk ≠ 0xA1) ∨
  (g = 15 ∧ kk ≠ 0x07 ∧ kk ≠ 0x0A ∧ kk ≠ 0x15 ∧ kk ≠ 0x18 ∧ kk ≠ 0x1E ∧ kk ≠ 0x29 ∧
    kk ≠ 0x33 ∧ kk ≠ 0x55 ∧ kk ≠ 0x65)

/-- The opcode in memory at pc, high byte first (R55). -/
def opcodeAt (s : State) : Word :=
  opcodeOf (s.mem.read s.pc.toNat) (s.mem.read (s.pc.toNat + 1))

/-- Whether a DRW lights (flips) the pixel at row r, column c (R161, R162, R164, R166): the row is
sprite row k = (r - V[y]) mod 32 < n, the column sprite column j = (c - V[x]) mod 64 < 8, and bit 7 - j
of the sprite byte at I + k is set. -/
def spriteLit (x y : Reg) (n : Nibble) (s : State) (r : Fin 32) (c : Fin 64) : Bool :=
  let k := (r.val + 256 - (s.getV y).toNat) % 32
  let j := (c.val + 256 - (s.getV x).toNat) % 64
  decide (k < n.toNat) && decide (j < 8) && (s.mem.read (s.i.toNat + k)).getLsbD (7 - j)

/-- A CALL to each target in turn. -/
def callAll : List Addr → State → Result
  | [], s => .next s
  | nnn :: rest, s =>
    match exec (.call nnn) s with
    | .next t => callAll rest t
    | o => o

/-- A byte as the spec's flag value. -/
def flag (c : Prop) [Decidable c] : Byte := if c then 1 else 0

end Sys2Proof.Claims

open Sys2Proof Sys2Proof.Machine Sys2Proof.Claims

/-! ### Decoding and encoding -/

/-- R71, R73, R74: the word of every well-formed instruction decodes to that instruction, every operand
at every value; and its two bytes do, with whatever follows them left over (R70). -/
def Obligations.EncodedInstructionDecodesBack : Prop :=
  ∀ i : Instr, i.wf = true →
    decodeWord (encode i) = .ok i ∧
    ∀ rest, decodeBytes (encodeBytes i ++ rest) = .ok (i, rest)

/-- R73, R80: every word has one meaning: a word that decodes is the encoding of what it decodes to,
which is well-formed. -/
def Obligations.DecodedWordEncodesBack : Prop :=
  ∀ (w : Word) (i : Instr), decodeWord w = .ok i → i.wf = true ∧ encode i = w

/-- R75 (D3), R76, R77, R78: the decoder rejects exactly the words R202 lists. -/
def Obligations.RejectedWordsAreTheInvalidOnes : Prop :=
  ∀ w : Word, (∃ e, decodeWord w = .error e) ↔ InvalidWord w

/-- R73, R74: the rows of the opcode table do not overlap: a word that decodes belongs to its
instruction's row and to no other, and a word that does not decode belongs to none. -/
def Obligations.WordBelongsToItsRowOnly : Prop :=
  ∀ w : Word,
    (∀ i, decodeWord w = .ok i →
      i.row ∈ opcodeTable ∧ ∀ r ∈ opcodeTable, (r.covers w = true ↔ r = i.row)) ∧
    (∀ e, decodeWord w = .error e → ∀ r ∈ opcodeTable, r.covers w = false)

/-- R71, R74, sanity: words written out from the spec's patterns, one of each family, and one INVALID
word of each of the five kinds (R75 (D3), R76, R77, R78). -/
def Obligations.WrittenOutWordsDecode : Prop :=
  decodeWord 0x1ABC = .ok (.jp 0xABC) ∧
  decodeWord 0x8124 = .ok (.addReg 1 2) ∧
  decodeWord 0xA300 = .ok (.ldI 0x300) ∧
  decodeWord 0xD12F = .ok (.drw 1 2 0xF) ∧
  decodeWord 0xF20A = .ok (.ldVxK 2) ∧
  decodeWord 0x00FF = .error .group0 ∧
  decodeWord 0x5341 = .error .pairNibble ∧
  decodeWord 0x8128 = .error .group8 ∧
  decodeWord 0xE19F = .error .groupE ∧
  decodeWord 0xF130 = .error .groupF

/-! ### The tick -/

/-- R93, R95, R96, R98, R205 (D13, D17): a tick that fetches in range raises InvalidInstruction with pc
and both bytes when the word does not decode, with no other effect and no end-of-tick work; when it
decodes to i, the step is exec i followed by the end of the tick. The model's choice (log entry 2): the
tick's key-downs stand in its schedule, which loses the entry, those before the instruction have landed
when it runs, and those after it land on a fatal tick too. -/
def Obligations.StepRunsTheDecodedInstruction : Prop :=
  ∀ (s : State) (early late : List Key), s.Ticks early late → s.pc.toNat ≤ 4094 →
    (∀ e, decodeWord (opcodeAt s) = .error e →
      step s = .next (({ s.keysLand early with
        status := .halted ⟨.invalidInstruction, s.pc,
          some (s.mem.read s.pc.toNat, s.mem.read (s.pc.toNat + 1))⟩ } : State).pressKeys late)) ∧
    (∀ i, decodeWord (opcodeAt s) = .ok i →
      step s = match exec i (s.keysLand early) with
        | .next t => .next (t.endTick late)
        | .fault f => .fault f
        | .refused r => .refused r)

/-- R92, R201 (D25): a tick with pc above 4094 halts with ProgramCounterOutOfBounds, whatever memory
holds; the record has pc and no bytes. R96, R205 (D13): nothing else changes, and no end-of-tick work is
done. The key-downs of the tick, before and after the failed fetch, land; that they stand in a schedule,
which loses its entry, is the model's choice (R98, log entry 2). -/
def Obligations.FetchOutOfBoundsHalts : Prop :=
  ∀ (s : State) (early late : List Key), s.Ticks early late → 4094 < s.pc.toNat →
    step s = .next (({ s.keysLand early with
      status := .halted ⟨.programCounterOutOfBounds, s.pc, none⟩ } : State).pressKeys late)

/-- R95 (D17), R187 (D28): after an instruction that raised no error the tick clears all 16 flags and
takes each timer that is not 0 down by 1, and does nothing else. The early key-downs have landed before
the instruction (log entry 2). -/
def Obligations.EndOfTickClearsKeysAndStepsTimers : Prop :=
  ∀ (s u : State) (early late : List Key), s.Ticks early late →
    executeOne (s.keysLand early) = .next u → u.status = .running →
    ∃ t, step s = .next t ∧ (∀ k : Key, t.key[k.val] = 0) ∧
      t.dt.toNat = u.dt.toNat - 1 ∧ t.st.toNat = u.st.toNat - 1 ∧
      t = { u with key := t.key, dt := t.dt, st := t.st }

/-- R186, R34 (D26): the key-downs that land before the instruction set exactly their own flags to 1, and
nothing else changes; the model's schedule (log entry 2) loses its entry. -/
def Obligations.KeyDownsSetTheirFlags : Prop :=
  ∀ (s : State) (early : List Key),
    (∀ k : Key, (s.keysLand early).key[k.val] = if k ∈ early then 1 else s.key[k.val]) ∧
    s.keysLand early = { s with key := (s.keysLand early).key, inputs := s.inputs.tail }

/-- R238: a key-down that lands after the instruction's keypad read and before the clear is never seen:
a tick that ends Running is the same without it. R96, R98 (D13): a fatal tick has no clear, so there it
stands in KEY when the block halts, and nothing else differs. The place of key-downs in a schedule is the
model's (log entry 2). -/
def Obligations.LateKeyDownsAreNeverSeen : Prop :=
  ∀ (s t : State) (early late : List Key) (rest : List AgentStep),
    step { s with inputs := .tick early [] :: rest } = .next t →
      (t.status = .running → step { s with inputs := .tick early late :: rest } = .next t) ∧
      (t.status ≠ .running →
        step { s with inputs := .tick early late :: rest } = .next (t.pressKeys late))

/-- R97 (D16): the quit is observed between ticks: the block is Stopped and its state as it was, the
model's schedule (log entry 2) apart. -/
def Obligations.QuitStopsTheBlock : Prop :=
  ∀ s : State, s.status = .running → s.nextInput = .quit →
    step s = .next { s with status := .stopped, inputs := s.inputs.tail }

/-- R36, R207: only Running admits a tick. That a block that is not Running answers a fault is the
model's choice (log entry 7). -/
def Obligations.OnlyARunningBlockSteps : Prop :=
  ∀ s : State,
    (∀ err, s.status = .halted err → step s = .fault (.halted err)) ∧
    (s.status = .stopped → step s = .fault .stopped)

/-- R205, R206, R96 (D13, D25): faults are precise. A tick that ends in anything but Running has only
raised an error: the state is the one before the instruction but for the status, no end-of-tick work is
done, and the record holds the instruction's address and, unless the fetch itself failed, its two bytes
as memory held them. The tick's key-downs land before and after the instruction (R98, log entry 2). -/
def Obligations.FatalTickIsPrecise : Prop :=
  ∀ (s t : State) (early late : List Key), s.Ticks early late → step s = .next t →
    t.status ≠ .running →
    ∃ kind, t = ({ s.keysLand early with
      status := .halted ⟨kind, s.pc,
        if kind = .programCounterOutOfBounds then none
        else some (s.mem.read s.pc.toNat, s.mem.read (s.pc.toNat + 1))⟩ } : State).pressKeys late

/-- R200, R202, R203, R204, R208 (D1, D3, D8, D24, D25): no other condition is an error. Each of the four
kinds has its cause, and the earlier checks have passed. -/
def Obligations.EachErrorHasItsCause : Prop :=
  ∀ (s t : State) (early late : List Key) (err : ErrRecord), s.Ticks early late →
    step s = .next t → t.status = .halted err →
    (err.kind = .programCounterOutOfBounds ∧ 4094 < s.pc.toNat) ∨
    (err.kind = .invalidInstruction ∧ s.pc.toNat ≤ 4094 ∧ InvalidWord (opcodeAt s)) ∨
    (err.kind = .stackOverflow ∧ (∃ nnn, s.Fetches (.call nnn)) ∧ 32 ≤ s.sp.toNat) ∨
    (err.kind = .memoryOutOfBounds ∧
      ∃ x y n, s.Fetches (.drw x y n) ∧ 0 < n.toNat ∧ 4096 ≤ s.i.toNat + n.toNat - 1)

/-- R90, R200: in a state that meets the invariant a Running block always steps; no fault and no refusal
of the model stands in its way. -/
def Obligations.RunningBlockAlwaysSteps : Prop :=
  ∀ s : State, s.Inv → s.status = .running → ∃ t, step s = .next t

/-! ### The invariant -/

/-- R27, R29, R30, R34, R50: every step keeps the invariant. -/
def Obligations.EveryStepKeepsTheInvariant : Prop :=
  ∀ s t : State, s.Inv → step s = .next t → t.Inv

/-- R40 (D11, D12): the state after reset meets the invariant. -/
def Obligations.ResetMeetsTheInvariant : Prop := State.reset.Inv

/-! ### Who writes what -/

/-- R22, R23: an instruction leaves every general register alone but its destination Vx, VF where it
writes a flag, and all of them for a block load. -/
def Obligations.OnlyDestinationRegistersChange : Prop :=
  ∀ (i : Instr) (s t : State) (r : Reg), exec i s = .next t → mayWriteReg i r = false →
    t.getV r = s.getV r

/-- R29, R30 (D1), R241: only CALL and RET change SP, only CALL writes the stack, and it writes only the
one cell it pushes to; cell 0 is never written. -/
def Obligations.OnlyCallAndRetChangeTheStack : Prop :=
  ∀ (i : Instr) (s t : State), exec i s = .next t →
    (i ≠ .ret → (∀ nnn, i ≠ .call nnn) → t.sp = s.sp) ∧
    ((∀ nnn, i ≠ .call nnn) → t.stack = s.stack) ∧
    (∀ c : Fin 33, c.val ≠ s.sp.toNat + 1 → t.stack[c.val] = s.stack[c.val])

/-- R33: only CLS and DRW write the framebuffer. -/
def Obligations.OnlyClsAndDrwChangeTheFramebuffer : Prop :=
  ∀ (i : Instr) (s t : State), exec i s = .next t → i ≠ .cls → (∀ x y n, i ≠ .drw x y n) →
    t.fb = s.fb

/-- R52, R54, R56, R57 (D8): only Fx33 and Fx55 store, and only to the three or sixteen bytes from I
upward that are below 4096; every other byte reads as before. -/
def Obligations.OnlyTheStoredBytesChange : Prop :=
  ∀ (i : Instr) (s t : State) (a : Nat), exec i s = .next t →
    ¬(s.base ≤ a ∧ a < s.base + storeLength i ∧ a < 4096) → t.mem.read a = s.mem.read a

/-- R28: I is written by Annn, Fx1E and Fx29 only. -/
def Obligations.OnlyThreeInstructionsChangeI : Prop :=
  ∀ (i : Instr) (s t : State), exec i s = .next t →
    (∀ nnn, i ≠ .ldI nnn) → (∀ x, i ≠ .addI x) → (∀ x, i ≠ .ldF x) → t.i = s.i

/-- R31, R32, R34, R39, R133 (D18, D26): an instruction itself changes DT only if it is Fx15, ST only if
it is Fx18, draws from the RNG only if it is Cxkk, raises no error unless it is CALL or DRW, and never
changes a keypad flag or the input schedule. -/
def Obligations.TimersKeysAndStatusAreKept : Prop :=
  ∀ (i : Instr) (s t : State), exec i s = .next t →
    ((∀ x, i ≠ .ldDtVx x) → t.dt = s.dt) ∧ ((∀ x, i ≠ .ldStVx x) → t.st = s.st) ∧
    ((∀ x kk, i ≠ .rnd x kk) → t.draws = s.draws) ∧
    ((∀ nnn, i ≠ .call nnn) → (∀ x y n, i ≠ .drw x y n) → t.status = s.status) ∧
    t.key = s.key ∧ t.inputs = s.inputs

/-! ### Control flow -/

/-- R102: JP addr, encoded 1nnn, puts nnn into pc and changes nothing else; the next fetch fails exactly
when nnn is 0xFFF. -/
def Obligations.JpGoesToItsAddress : Prop :=
  ∀ (nnn : Addr) (s : State),
    decodeWord (BitVec.ofNat 16 (0x1000 + nnn.toNat)) = .ok (.jp nnn) ∧
    ∃ t, exec (.jp nnn) s = .next t ∧ t = { s with pc := BitVec.ofNat 16 nnn.toNat } ∧
      (t.fetch = none ↔ nnn = 0xFFF)

/-- R101 (D3): SYS addr is a jump: the same as JP to the same address. -/
def Obligations.SysIsAJump : Prop :=
  ∀ (nnn : Addr) (s : State),
    (0x100 ≤ nnn.toNat → decodeWord (BitVec.ofNat 16 nnn.toNat) = .ok (.sys nnn)) ∧
    exec (.sys nnn) s = .next { s with pc := BitVec.ofNat 16 nnn.toNat }

/-- R103 (D1): CALL with SP below 32 raises SP by 1, stores its own address in the new cell, and jumps;
nothing else changes. -/
def Obligations.CallPushesItsOwnAddress : Prop :=
  ∀ (nnn : Addr) (s : State), s.sp.toNat < 32 →
    ∃ t, exec (.call nnn) s = .next t ∧ t.sp.toNat = s.sp.toNat + 1 ∧
      (∀ c : Fin 33, t.stack[c.val] = if c.val = s.sp.toNat + 1 then s.pc else s.stack[c.val]) ∧
      t = { s with sp := t.sp, stack := t.stack, pc := BitVec.ofNat 16 nnn.toNat }

/-- R103, R203, R205 (D1, D13): CALL with SP at 32 or above raises StackOverflow with its own address and
bytes and changes nothing else. -/
def Obligations.CallBeyondCapacityOverflows : Prop :=
  ∀ (nnn : Addr) (s : State), 32 ≤ s.sp.toNat →
    exec (.call nnn) s = .next { s with
      status := .halted ⟨.stackOverflow, s.pc,
        some (BitVec.ofNat 8 (0x20 + nnn.toNat / 0x100), BitVec.ofNat 8 nnn.toNat)⟩ }

/-- R104 (D2, D22): RET goes to the cell SP names plus 2, mod 2^16, and takes SP down by 1 unless it is
0; the cell keeps its value and nothing else changes. With SP above 32 no cell exists, and the model
answers its own fault (log entry 8). -/
def Obligations.RetReturnsBehindTheCall : Prop :=
  ∀ s : State,
    (∀ h : s.sp.toNat ≤ 32, ∃ t, exec .ret s = .next t ∧ t.sp.toNat = s.sp.toNat - 1 ∧
      t = { s with sp := t.sp, pc := s.stack[s.sp.toNat]'(by omega) + 2 }) ∧
    (32 < s.sp.toNat → exec .ret s = .fault .noStackCell)

/-- R110, R241 (D1, D2): CALL and then, with the stack as the CALL left it, RET come back to the
instruction after the CALL, with SP as before. -/
def Obligations.RetUndoesCall : Prop :=
  ∀ (nnn : Addr) (s t u : State), s.sp.toNat < 32 → exec (.call nnn) s = .next t →
    u.sp = t.sp → u.stack = t.stack →
    ∃ w, exec .ret u = .next w ∧ w.pc = s.pc + 2 ∧ w.sp = s.sp

/-- R110 (D1): from SP = 0, k CALLs with no RET between them, k at most 32, leave SP = k and the calling
addresses in cells 1..k in order, and raise no error. -/
def Obligations.NestedCallsStackTheirAddresses : Prop :=
  ∀ (targets : List Addr) (s : State), s.sp = 0 → targets.length ≤ 32 →
    ∃ t, callAll targets s = .next t ∧ t.sp.toNat = targets.length ∧ t.status = s.status ∧
      (t.stack.toList.drop 1).take targets.length =
        (s.pc :: targets.map fun a => BitVec.ofNat 16 a.toNat).take targets.length

/-- R105, R106: SE Vx, byte (3xkk) and SNE Vx, byte (4xkk) add 4 to pc if the register equals, or
differs from, the byte, else 2, and change nothing else; a taken skip at 4094 fails at the next
fetch. -/
def Obligations.SkipsOnAByte : Prop :=
  ∀ (x : Reg) (kk : Byte) (s : State),
    decodeWord (BitVec.ofNat 16 (0x3000 + 0x100 * x.val + kk.toNat)) = .ok (.seImm x kk) ∧
    decodeWord (BitVec.ofNat 16 (0x4000 + 0x100 * x.val + kk.toNat)) = .ok (.sneImm x kk) ∧
    exec (.seImm x kk) s = .next { s with pc := s.pc + if s.getV x = kk then 4 else 2 } ∧
    exec (.sneImm x kk) s = .next { s with pc := s.pc + if s.getV x = kk then 2 else 4 } ∧
    ({ s with pc := (4094 : Word) + 4 } : State).fetch = none

/-- R107, R108: SE Vx, Vy (5xy0) and SNE Vx, Vy (9xy0) add 4 to pc if the registers are equal, or
differ, else 2, and change nothing else; with N ≠ 0 the words 5xyN and 9xyN are rejected; x = y always
skips and never skips. -/
def Obligations.SkipsOnARegister : Prop :=
  ∀ (x y : Reg) (s : State),
    decodeWord (BitVec.ofNat 16 (0x5000 + 0x100 * x.val + 0x10 * y.val)) = .ok (.seReg x y) ∧
    decodeWord (BitVec.ofNat 16 (0x9000 + 0x100 * x.val + 0x10 * y.val)) = .ok (.sneReg x y) ∧
    (∀ n : Nat, 0 < n → n < 16 →
      decodeWord (BitVec.ofNat 16 (0x5000 + 0x100 * x.val + 0x10 * y.val + n)) =
        .error .pairNibble ∧
      decodeWord (BitVec.ofNat 16 (0x9000 + 0x100 * x.val + 0x10 * y.val + n)) =
        .error .pairNibble) ∧
    exec (.seReg x y) s = .next { s with pc := s.pc + if s.getV x = s.getV y then 4 else 2 } ∧
    exec (.sneReg x y) s = .next { s with pc := s.pc + if s.getV x = s.getV y then 2 else 4 } ∧
    exec (.seReg x x) s = .next { s with pc := s.pc + 4 } ∧
    exec (.sneReg x x) s = .next { s with pc := s.pc + 2 }

/-- R109 (D14): JP V0, addr puts nnn + V0 into pc, not masked to 12 bits, and changes nothing else. -/
def Obligations.JpV0AddsV0 : Prop :=
  ∀ (nnn : Addr) (s : State),
    ∃ t, exec (.jpV0 nnn) s = .next t ∧ t.pc.toNat = nnn.toNat + (s.getV 0).toNat ∧
      t = { s with pc := t.pc }

/-! ### Registers and ALU -/

/-- R122, R124: LD Vx, byte (6xkk) and LD Vx, Vy (8xy0) write Vx and nothing else, and pc goes up by
2. -/
def Obligations.LoadsWriteTheirRegister : Prop :=
  ∀ (x y : Reg) (kk : Byte) (s : State),
    decodeWord (BitVec.ofNat 16 (0x6000 + 0x100 * x.val + kk.toNat)) = .ok (.ldImm x kk) ∧
    decodeWord (BitVec.ofNat 16 (0x8000 + 0x100 * x.val + 0x10 * y.val)) = .ok (.ldReg x y) ∧
    (∃ t, exec (.ldImm x kk) s = .next t ∧
      (∀ r, t.getV r = if r = x then kk else s.getV r) ∧ t = { s with v := t.v, pc := s.pc + 2 }) ∧
    (∃ t, exec (.ldReg x y) s = .next t ∧
      (∀ r, t.getV r = if r = x then s.getV y else s.getV r) ∧
      t = { s with v := t.v, pc := s.pc + 2 })

/-- R123: ADD Vx, byte (7xkk) adds mod 2^8 and writes no flag: with x ≠ F, VF is not touched. -/
def Obligations.AddByteWrapsWithoutFlag : Prop :=
  ∀ (x : Reg) (kk : Byte) (s : State),
    decodeWord (BitVec.ofNat 16 (0x7000 + 0x100 * x.val + kk.toNat)) = .ok (.addImm x kk) ∧
    ∃ t, exec (.addImm x kk) s = .next t ∧
      (∀ r, t.getV r = if r = x then s.getV x + kk else s.getV r) ∧
      t = { s with v := t.v, pc := s.pc + 2 }

/-- R125, R126, R127: OR (8xy1), AND (8xy2) and XOR (8xy3) write the bitwise result to Vx, no flag, and
nothing else. -/
def Obligations.LogicWritesNoFlag : Prop :=
  ∀ (x y : Reg) (s : State),
    decodeWord (BitVec.ofNat 16 (0x8001 + 0x100 * x.val + 0x10 * y.val)) = .ok (.orReg x y) ∧
    decodeWord (BitVec.ofNat 16 (0x8002 + 0x100 * x.val + 0x10 * y.val)) = .ok (.andReg x y) ∧
    decodeWord (BitVec.ofNat 16 (0x8003 + 0x100 * x.val + 0x10 * y.val)) = .ok (.xorReg x y) ∧
    (∃ t, exec (.orReg x y) s = .next t ∧
      (∀ r, t.getV r = if r = x then s.getV x ||| s.getV y else s.getV r) ∧
      t = { s with v := t.v, pc := s.pc + 2 }) ∧
    (∃ t, exec (.andReg x y) s = .next t ∧
      (∀ r, t.getV r = if r = x then s.getV x &&& s.getV y else s.getV r) ∧
      t = { s with v := t.v, pc := s.pc + 2 }) ∧
    (∃ t, exec (.xorReg x y) s = .next t ∧
      (∀ r, t.getV r = if r = x then s.getV x ^^^ s.getV y else s.getV r) ∧
      t = { s with v := t.v, pc := s.pc + 2 })

/-- R128, R121 (D4: the flag is written last): ADD Vx, Vy writes the sum mod 2^8 to Vx and to VF whether
the sum exceeds 255; with x = F the flag stands. Nothing else changes. -/
def Obligations.AddSetsTheCarry : Prop :=
  ∀ (x y : Reg) (s : State),
    ∃ t, exec (.addReg x y) s = .next t ∧
      (∀ r, t.getV r =
        if r = 15 then flag (255 < (s.getV x).toNat + (s.getV y).toNat)
        else if r = x then s.getV x + s.getV y else s.getV r) ∧
      t = { s with v := t.v, pc := s.pc + 2 }

/-- R129, R131, R121 (D4): SUB writes Vx - Vy and SUBN Vy - Vx, mod 2^8, to Vx, and to VF whether the
minuend is strictly greater; with x = F the flag stands. Nothing else changes. -/
def Obligations.SubtractionsSetAStrictFlag : Prop :=
  ∀ (x y : Reg) (s : State),
    (∃ t, exec (.subReg x y) s = .next t ∧
      (∀ r, t.getV r =
        if r = 15 then flag ((s.getV x).toNat > (s.getV y).toNat)
        else if r = x then s.getV x - s.getV y else s.getV r) ∧
      t = { s with v := t.v, pc := s.pc + 2 }) ∧
    (∃ t, exec (.subn x y) s = .next t ∧
      (∀ r, t.getV r =
        if r = 15 then flag ((s.getV y).toNat > (s.getV x).toNat)
        else if r = x then s.getV y - s.getV x else s.getV r) ∧
      t = { s with v := t.v, pc := s.pc + 2 })

/-- R130, R132, R121 (D4, D5): SHR halves Vx and writes its old bit 0 to VF; SHL doubles it mod 2^8 and
writes its old bit 3, not bit 7, to VF; the y field is ignored; with x = F the flag stands. Nothing else
changes. -/
def Obligations.ShiftsSetTheirBit : Prop :=
  ∀ (x y : Reg) (s : State),
    (∃ t, exec (.shr x y) s = .next t ∧
      (∀ r, t.getV r =
        if r = 15 then flag ((s.getV x).toNat % 2 = 1)
        else if r = x then BitVec.ofNat 8 ((s.getV x).toNat / 2) else s.getV r) ∧
      t = { s with v := t.v, pc := s.pc + 2 }) ∧
    (∃ t, exec (.shl x y) s = .next t ∧
      (∀ r, t.getV r =
        if r = 15 then flag ((s.getV x).toNat / 8 % 2 = 1)
        else if r = x then BitVec.ofNat 8 ((s.getV x).toNat * 2) else s.getV r) ∧
      t = { s with v := t.v, pc := s.pc + 2 })

/-- R133 (D18): RND takes one fresh byte of the RNG oracle, whatever it is, and writes it, masked with
kk, to Vx; with kk = 0 that is 0. Nothing else changes. The oracle's byte is a free value (log entry
3). -/
def Obligations.RndMasksOneFreshDraw : Prop :=
  ∀ (x : Reg) (kk : Byte) (s : State),
    ∃ t, exec (.rnd x kk) s = .next t ∧
      (∀ r, t.getV r = if r = x then Config.randomByte s.draws &&& kk else s.getV r) ∧
      (kk = 0 → t.getV x = 0) ∧
      t = { s with v := t.v, pc := s.pc + 2, draws := s.draws + 1 }

/-! ### Index register and memory -/

/-- R140, R141: LD I, addr (Annn) loads nnn, at most 0x0FFF; ADD I, Vx (Fx1E) adds mod 2^16, and touches
no flag. Nothing else changes. -/
def Obligations.IndexLoadsAndAdds : Prop :=
  ∀ (nnn : Addr) (x : Reg) (s : State),
    decodeWord (BitVec.ofNat 16 (0xA000 + nnn.toNat)) = .ok (.ldI nnn) ∧
    decodeWord (BitVec.ofNat 16 (0xF01E + 0x100 * x.val)) = .ok (.addI x) ∧
    (∃ t, exec (.ldI nnn) s = .next t ∧ t.i.toNat = nnn.toNat ∧ t.i.toNat ≤ 0x0FFF ∧
      t = { s with i := t.i, pc := s.pc + 2 }) ∧
    (∃ t, exec (.addI x) s = .next t ∧
      t.i.toNat = (s.i.toNat + (s.getV x).toNat) % 2 ^ 16 ∧ t = { s with i := t.i, pc := s.pc + 2 })

/-- R142: LD F, Vx (Fx29) multiplies the whole of Vx by 5, with no reduction, and changes nothing else;
a digit's glyph is inside 0x000..0x04F, values 0x10..0x19 point into the rest of the font region, and
greater ones past it. -/
def Obligations.GlyphAddressIsFiveTimesVx : Prop :=
  ∀ (x : Reg) (s : State),
    decodeWord (BitVec.ofNat 16 (0xF029 + 0x100 * x.val)) = .ok (.ldF x) ∧
    ∃ t, exec (.ldF x) s = .next t ∧ t.i.toNat = (s.getV x).toNat * 5 ∧
      ((s.getV x).toNat ≤ 0xF → t.i.toNat + 4 ≤ 0x04F) ∧
      (0x10 ≤ (s.getV x).toNat → (s.getV x).toNat ≤ 0x19 →
        0x050 ≤ t.i.toNat ∧ t.i.toNat ≤ 0x07D) ∧
      (0x1A ≤ (s.getV x).toNat → 0x080 ≤ t.i.toNat) ∧
      t = { s with i := t.i, pc := s.pc + 2 }

/-- R143: LD B, Vx (Fx33) stores the hundreds, tens and ones of Vx at I, I + 1 and I + 2, each only if
that address is below 4096, with no error; every other byte, and everything else but pc, is
unchanged. -/
def Obligations.BcdStoresThreeDigits : Prop :=
  ∀ (x : Reg) (s : State),
    decodeWord (BitVec.ofNat 16 (0xF033 + 0x100 * x.val)) = .ok (.ldB x) ∧
    ∃ t, exec (.ldB x) s = .next t ∧
      (∀ a, t.mem.read a =
        if 4096 ≤ a then s.mem.read a
        else if a = s.base then BitVec.ofNat 8 ((s.getV x).toNat / 100)
        else if a = s.base + 1 then BitVec.ofNat 8 ((s.getV x).toNat / 10 % 10)
        else if a = s.base + 2 then BitVec.ofNat 8 ((s.getV x).toNat % 10)
        else s.mem.read a) ∧
      t = { s with mem := t.mem, pc := s.pc + 2 }

/-- R144 (D9): LD [I], Vx stores V0..VF from I upward, up to min(I + 16, 4096), whatever x is; I and
everything else but pc is unchanged. -/
def Obligations.BlockStoreWritesAllRegisters : Prop :=
  ∀ (x : Reg) (s : State),
    ∃ t, exec (.storeRegs x) s = .next t ∧
      (∀ r : Reg, s.base + r.val < 4096 → t.mem.read (s.base + r.val) = s.getV r) ∧
      (∀ a, ¬(s.base ≤ a ∧ a < min (s.base + 16) 4096) → t.mem.read a = s.mem.read a) ∧
      t = { s with mem := t.mem, pc := s.pc + 2 } ∧
      ∀ y : Reg, exec (.storeRegs y) s = .next t

/-- R145 (D9): LD Vx, [I] loads V0..VF from I upward as far as the memory goes, whatever x is, and the
registers beyond keep their values; I and everything else but pc is unchanged. -/
def Obligations.BlockLoadReadsAllRegisters : Prop :=
  ∀ (x : Reg) (s : State),
    ∃ t, exec (.loadRegs x) s = .next t ∧
      (∀ r : Reg, t.getV r =
        if s.base + r.val < 4096 then s.mem.read (s.base + r.val) else s.getV r) ∧
      t = { s with v := t.v, pc := s.pc + 2 } ∧
      ∀ y : Reg, exec (.loadRegs y) s = .next t

/-! ### Display -/

/-- R163: CLS (00E0) clears every pixel, and changes nothing else but pc: VF is unchanged. -/
def Obligations.ClsClearsEveryPixel : Prop :=
  ∀ s : State,
    decodeWord 0x00E0 = .ok .cls ∧
    ∃ t, exec .cls s = .next t ∧ (∀ r c, t.pixel r c = false) ∧
      t = { s with fb := t.fb, pc := s.pc + 2 }

/-- R160, R161, R162, R164, R165, R166 (D4, D6, D7, D8): a DRW whose sprite lies in memory flips exactly
the pixels under a set sprite bit, columns wrapping mod 64 and rows mod 32, and writes to VF whether any
lit pixel went dark; n = 0 draws nothing. Nothing else changes but pc. -/
def Obligations.DrwFlipsExactlyTheSpritePixels : Prop :=
  ∀ (x y : Reg) (n : Nibble) (s : State), (n.toNat = 0 ∨ s.base + n.toNat - 1 < 4096) →
    ∃ t, exec (.drw x y n) s = .next t ∧
      (∀ r c, t.pixel r c = (s.pixel r c ^^ spriteLit x y n s r c)) ∧
      (∀ q : Reg, t.getV q =
        if q = 15 then flag (∃ r c, s.pixel r c = true ∧ spriteLit x y n s r c = true)
        else s.getV q) ∧
      t = { s with v := t.v, fb := t.fb, pc := s.pc + 2 }

/-- R166, R204, R205 (D8, D13): a DRW with n > 0 whose last sprite byte is at or above 4096 raises
MemoryOutOfBounds with its own address and bytes; no pixel, register or other state changes. -/
def Obligations.DrwBeyondMemoryHalts : Prop :=
  ∀ (x y : Reg) (n : Nibble) (s : State), 0 < n.toNat → 4096 ≤ s.base + n.toNat - 1 →
    exec (.drw x y n) s = .next { s with
      status := .halted ⟨.memoryOutOfBounds, s.pc,
        some (BitVec.ofNat 8 (0xD0 + x.val), BitVec.ofNat 8 (0x10 * y.val + n.toNat))⟩ }

/-- R164: the three placement cases of the source: a left shift by 56 - x below column 56, the byte
itself at 56, and above it the byte split over both edges. -/
def Obligations.PlacementHasThreeCases : Prop :=
  ∀ (b : Byte) (x : Nat), x < 64 →
    (x < 56 → place b x = b.zeroExtend 64 <<< (56 - x)) ∧
    (x = 56 → place b x = b.zeroExtend 64) ∧
    (56 < x → place b x = (b.zeroExtend 64 >>> (x - 56)) ||| (b.zeroExtend 64 <<< (120 - x)))

/-- R165: a row collides exactly when some pixel that was set is cleared: the test of the source is the
same as old & m not being 0. -/
def Obligations.CollisionIsAClearedPixel : Prop :=
  ∀ old m : Row, (((old ^^^ m) &&& old) ≠ old ↔ old &&& m ≠ 0) ∧
    (collides old m = true ↔ old &&& m ≠ 0)

/-- R169 (b) (D4, D6, D7, D8): the same DRW twice, with neither coordinate in VF and the sprite in memory, restores every
pixel; the second draw's VF says whether the sprite has a bit on a pixel that was dark at first. -/
def Obligations.DrawingTwiceRestores : Prop :=
  ∀ (x y : Reg) (n : Nibble) (s t : State), x ≠ 15 → y ≠ 15 →
    (n.toNat = 0 ∨ s.base + n.toNat - 1 < 4096) → exec (.drw x y n) s = .next t →
    ∃ u, exec (.drw x y n) t = .next u ∧ u.fb = s.fb ∧
      u.getV 15 = flag (∃ r c, s.pixel r c = false ∧ spriteLit x y n s r c = true)

/-- R169 (a) (D6, D7, D8): CLS and then a DRW whose sprite lies in memory leave exactly the sprite's pixels lit, and
VF is 0. -/
def Obligations.DrawingAfterClsShowsTheSprite : Prop :=
  ∀ (x y : Reg) (n : Nibble) (s t : State), (n.toNat = 0 ∨ s.base + n.toNat - 1 < 4096) →
    exec .cls s = .next t →
    ∃ u, exec (.drw x y n) t = .next u ∧ (∀ r c, u.pixel r c = spriteLit x y n s r c) ∧
      u.getV 15 = 0

/-! ### Keypad and timers -/

/-- R180, R181 (D26): SKP and SKNP test the flag of key V[x] & 0xF, add 4 to pc if it is set, or clear, else 2,
and change nothing else: the flag is not cleared. -/
def Obligations.SkipsOnAKey : Prop :=
  ∀ (x : Reg) (s : State),
    exec (.skp x) s = .next { s with
      pc := s.pc + if s.key[(s.getV x).toNat % 16]'(by omega) ≠ 0 then 4 else 2 } ∧
    exec (.sknp x) s = .next { s with
      pc := s.pc + if s.key[(s.getV x).toNat % 16]'(by omega) ≠ 0 then 2 else 4 }

/-- R182 (D10): LD Vx, K stores the lowest pressed key in Vx and goes on; with no key pressed it changes
nothing at all, so that it runs again at the next tick. The flags are not cleared. -/
def Obligations.WaitForKeyTakesTheLowest : Prop :=
  ∀ (x : Reg) (s : State),
    ((∀ k : Key, s.key[k.val] = 0) → exec (.ldVxK x) s = .next s) ∧
    (∀ k : Key, s.key[k.val] ≠ 0 → (∀ j : Key, j < k → s.key[j.val] = 0) →
      ∃ t, exec (.ldVxK x) s = .next t ∧
        (∀ r, t.getV r = if r = x then BitVec.ofNat 8 k.val else s.getV r) ∧
        t = { s with v := t.v, pc := s.pc + 2 })

/-- R183, R184, R185: LD Vx, DT (Fx07), LD DT, Vx (Fx15) and LD ST, Vx (Fx18) copy the byte and change
nothing else but pc; over the whole tick the timer's decrement comes after the instruction. -/
def Obligations.TimerLoadsAndStores : Prop :=
  ∀ (x : Reg) (s : State),
    decodeWord (BitVec.ofNat 16 (0xF007 + 0x100 * x.val)) = .ok (.ldVxDt x) ∧
    decodeWord (BitVec.ofNat 16 (0xF015 + 0x100 * x.val)) = .ok (.ldDtVx x) ∧
    decodeWord (BitVec.ofNat 16 (0xF018 + 0x100 * x.val)) = .ok (.ldStVx x) ∧
    (∃ t, exec (.ldVxDt x) s = .next t ∧
      (∀ r, t.getV r = if r = x then s.dt else s.getV r) ∧ t = { s with v := t.v, pc := s.pc + 2 }) ∧
    exec (.ldDtVx x) s = .next { s with dt := s.getV x, pc := s.pc + 2 } ∧
    exec (.ldStVx x) s = .next { s with st := s.getV x, pc := s.pc + 2 } ∧
    ∀ early late, s.Ticks early late →
      (s.Fetches (.ldVxDt x) →
        ∃ t, step s = .next t ∧ t.getV x = s.dt ∧ t.dt.toNat = s.dt.toNat - 1) ∧
      (s.Fetches (.ldDtVx x) → ∃ t, step s = .next t ∧ t.dt.toNat = (s.getV x).toNat - 1) ∧
      (s.Fetches (.ldStVx x) → ∃ t, step s = .next t ∧ t.st.toNat = (s.getV x).toNat - 1)

/-! ### Reset and boot -/

/-- R40 (D11, D12), R53: the values of the state after reset, as the machine reads them: pc at the
default ROM_BASE, every register, stack cell, pixel row and key flag 0, memory FONT and then zeros, and
Running. FONT is a free value (log entry 4); the default base and the empty ROM are log entries 5
and 6. -/
def Obligations.ResetValues : Prop :=
  let s := State.reset
  s.pc = 0x200 ∧ (∀ r, s.getV r = 0) ∧ s.i = 0 ∧ s.sp = 0 ∧ (∀ c : Fin 33, s.stack[c.val] = 0) ∧
  s.dt = 0 ∧ s.st = 0 ∧ (∀ r : Fin 32, s.fb[r.val] = 0) ∧ (∀ k : Key, s.key[k.val] = 0) ∧
  s.status = .running ∧ (∀ a : Fin 128, s.mem.read a.val = Config.font[a.val]) ∧
  (∀ a, 128 ≤ a → s.mem.read a = 0)

/-- R231, R232, R234 (D11, D12, D19, D20): with 128 font bytes and a ROM that fits, the boot gives the
reset state with pc at ROM_BASE and memory the ROM, then the font, then zeros: ROM bytes win where they
overlap the font. That state meets the invariant. -/
def Obligations.BootLoadsFontThenRom : Prop :=
  ∀ (font rom : List Byte) (romBase : Nat) (inputs : List AgentStep), font.length = 128 →
    romBase ≤ 4094 → romBase + rom.length ≤ 4096 →
    ∃ t, boot (some font) romBase rom inputs = .next t ∧ t.Inv ∧
      (∀ a, a < 4096 → t.mem.read a =
        if romBase ≤ a ∧ a < romBase + rom.length then rom.getD (a - romBase) 0
        else font.getD a 0) ∧
      t = { State.reset with mem := t.mem, pc := BitVec.ofNat 16 romBase, inputs := inputs }

/-- R233, R234 (D19, D20): a font provider that failed or did not deliver 128 bytes, a base above 4094
and a ROM that does not fit are each refused: the block never reaches Running. -/
def Obligations.BootRefusesABadConfiguration : Prop :=
  ∀ (font : Option (List Byte)) (rom : List Byte) (romBase : Nat) (inputs : List AgentStep),
    ((∀ f, font = some f → f.length ≠ 128) ∨ 4094 < romBase ∨ 4096 < romBase + rom.length) →
    ∃ r, boot font romBase rom inputs = .refused r

/-- R231, R232 (D11, D12, D19, D20; log entries 4, 5 and 6): the state after reset is the one the boot
gives for FONT, the default base and an empty ROM. -/
def Obligations.ResetIsTheDefaultBoot : Prop :=
  boot (some Config.font.toList) 0x200 [] [] = .next State.reset

/-! ### Key-downs between ticks -/

/-- R60, R98, R186, R213 (D26, D29): a key-down that lands between two ticks is a step of the input agent
alone: its own flag is 1 and the other flags are as they were, the display sink reads them so, and no
instruction runs. The schedule that holds it and loses the entry is the model's (log entry 2). -/
def Obligations.KeyDownBetweenTicksIsLatched : Prop :=
  ∀ (s : State) (k : Key), s.status = .running → s.nextInput = .keyDown k →
    ∃ t, step s = .next t ∧
      (∀ j : Key, t.latchedKeys[j.val] = if j = k then 1 else s.latchedKeys[j.val]) ∧
      t = { s with key := t.key, inputs := s.inputs.tail }
end

