-- ==== Sys2Proof/Laws/Memory.lean ====
section
/-! SUPPORT. The laws of memory: what a read gives after each operation, and that every operation keeps
the canonical form. -/

namespace Sys2Proof.Machine

/-! ### Reading after a change of one byte -/

@[simp] theorem Memory.read_nil (a : Nat) : Memory.read [] a = Memory.unlisted a := rfl

theorem Memory.read_cons (c : Host.Cell) (m : Memory) (a : Nat) :
    Memory.read (c :: m) a = if c.1 = a then c.2 else Memory.read m a := rfl

theorem Memory.read_put (m : Memory) (a a' : Nat) (b : Byte) :
    (m.put a b).read a' = if a' = a then b else m.read a' := by
  induction m with
  | nil => simp [Memory.put, Memory.read_cons, eq_comm]
  | cons c m ih =>
    obtain ⟨a₁, b₁⟩ := c
    simp only [Memory.put]
    split
    · simp [Memory.read_cons, eq_comm]
    · split
      · next h => subst h; simp only [Memory.read_cons, eq_comm]; split <;> simp_all
      · next h => simp only [Memory.read_cons, ih]; grind

theorem Memory.read_remove (m : Memory) (a a' : Nat) :
    (m.remove a).read a' = if a' = a then Memory.unlisted a else m.read a' := by
  induction m with
  | nil => simp [Memory.remove]; rintro rfl; rfl
  | cons c m ih =>
    obtain ⟨a₁, b₁⟩ := c
    simp only [Memory.remove]
    split
    · next h => rw [ih]; simp only [Memory.read_cons]; grind
    · next h => simp only [Memory.read_cons, ih]; grind

/-- MemWrite then MemRead (R57): the byte written at its address, the old byte elsewhere. -/
theorem Memory.read_write (m : Memory) (a a' : Nat) (b : Byte) :
    (m.write a b).read a' = if a' = a then b else m.read a' := by
  unfold Memory.write
  split
  · next h => rw [Memory.read_remove, h]
  · exact Memory.read_put m a a' b

@[simp] theorem Memory.read_write_same (m : Memory) (a : Nat) (b : Byte) :
    (m.write a b).read a = b := by simp [Memory.read_write]

theorem Memory.read_write_ne {a a' : Nat} (m : Memory) (b : Byte) (h : a' ≠ a) :
    (m.write a b).read a' = m.read a' := by simp [Memory.read_write, h]

/-! ### Bytes in a row -/

/-- Everything a bounded store does to the bytes of memory (R143, R144). -/
theorem Memory.read_storeBounded (bs : List Byte) (m : Memory) (base a : Nat) :
    (m.storeBounded base bs).read a =
      if base ≤ a ∧ a < memSize then bs.getD (a - base) (m.read a) else m.read a := by
  induction bs generalizing m base with
  | nil => simp [Memory.storeBounded]
  | cons b bs ih =>
    simp only [Memory.storeBounded, ih]
    rcases lt_trichotomy a base with h | h | h
    · have h₁ : ¬base + 1 ≤ a := by omega
      have h₂ : ¬base ≤ a := by omega
      simp only [h₁, h₂, false_and, if_false]
      split
      · exact Memory.read_write_ne m b (by omega)
      · rfl
    · subst h
      have h₁ : ¬a + 1 ≤ a := by omega
      simp only [h₁, false_and, if_false, le_refl, true_and, Nat.sub_self, List.getD_cons_zero]
      split <;> simp
    · have h₁ : base + 1 ≤ a := h
      have h₂ : base ≤ a := by omega
      have h₃ : a - base = (a - (base + 1)) + 1 := by omega
      have h₄ : (if base < memSize then m.write base b else m).read a = m.read a := by
        split
        · exact Memory.read_write_ne m b (by omega)
        · rfl
      simp only [h₁, h₂, true_and, h₄, h₃, List.getD_cons_succ]

@[simp] theorem Memory.length_readBytes (m : Memory) (a n : Nat) : (m.readBytes a n).length = n := by
  induction n generalizing a with
  | zero => rfl
  | succ n ih => simp [Memory.readBytes, ih]

theorem Memory.getElem_readBytes (m : Memory) (a n j : Nat) (h : j < (m.readBytes a n).length) :
    (m.readBytes a n)[j] = m.read (a + j) := by
  induction n generalizing a j with
  | zero => simp at h
  | succ n ih =>
    cases j with
    | zero => rfl
    | succ j => simp only [Memory.readBytes, List.getElem_cons_succ, ih]; congr 1; omega

/-! ### The canonical form -/

theorem Memory.wf_iff (m : Memory) : m.wf = true ↔ m.Pairwise (fun p q => p.1 < q.1) ∧
    ∀ c ∈ m, c.1 < memSize ∧ c.2 ≠ Memory.unlisted c.1 := by
  simp [Memory.wf]

@[simp] theorem Memory.wf_nil : Memory.wf [] = true := rfl

theorem Memory.mem_remove {m : Memory} {a : Nat} {c : Host.Cell} (h : c ∈ m.remove a) : c ∈ m := by
  induction m with
  | nil => exact h
  | cons c' m ih =>
    simp only [Memory.remove] at h
    split at h
    · exact List.mem_cons_of_mem _ (ih h)
    · rcases List.mem_cons.mp h with h | h
      · exact h ▸ List.mem_cons_self
      · exact List.mem_cons_of_mem _ (ih h)

theorem Memory.mem_put {m : Memory} {a : Nat} {b : Byte} {c : Host.Cell} (h : c ∈ m.put a b) :
    c = (a, b) ∨ c ∈ m := by
  induction m with
  | nil => simpa [Memory.put] using h
  | cons c' m ih =>
    simp only [Memory.put] at h
    split at h
    · simpa using h
    · split at h
      · rcases List.mem_cons.mp h with h | h
        · exact .inl h
        · exact .inr (List.mem_cons_of_mem _ h)
      · rcases List.mem_cons.mp h with h | h
        · exact .inr (h ▸ List.mem_cons_self)
        · exact (ih h).imp id (List.mem_cons_of_mem _)

theorem Memory.wf_remove {m : Memory} (h : m.wf = true) (a : Nat) : (m.remove a).wf = true := by
  rw [Memory.wf_iff] at h ⊢
  refine ⟨?_, fun c hc => h.2 c (Memory.mem_remove hc)⟩
  obtain ⟨hp, -⟩ := h
  induction m with
  | nil => exact hp
  | cons c m ih =>
    rw [List.pairwise_cons] at hp
    simp only [Memory.remove]
    split
    · exact ih hp.2
    · exact List.pairwise_cons.mpr ⟨fun q hq => hp.1 q (Memory.mem_remove hq), ih hp.2⟩

theorem Memory.wf_put {m : Memory} (h : m.wf = true) {a : Nat} {b : Byte} (ha : a < memSize)
    (hb : b ≠ Memory.unlisted a) : (m.put a b).wf = true := by
  rw [Memory.wf_iff] at h ⊢
  refine ⟨?_, fun c hc => ?_⟩
  · obtain ⟨hp, -⟩ := h
    induction m with
    | nil => exact List.pairwise_singleton _ _
    | cons c m ih =>
      have hp' := List.pairwise_cons.mp hp
      simp only [Memory.put]
      split
      · next hlt =>
        refine List.pairwise_cons.mpr ⟨fun q hq => ?_, hp⟩
        rcases List.mem_cons.mp hq with rfl | hq
        · exact hlt
        · exact lt_trans hlt (hp'.1 q hq)
      · split
        · next heq => exact List.pairwise_cons.mpr ⟨fun q hq => heq ▸ hp'.1 q hq, hp'.2⟩
        · next hlt hne =>
          refine List.pairwise_cons.mpr ⟨fun q hq => ?_, ih hp'.2⟩
          rcases Memory.mem_put hq with rfl | hq
          · simp only; omega
          · exact hp'.1 q hq
  · rcases Memory.mem_put hc with rfl | hc
    · exact ⟨ha, hb⟩
    · exact h.2 c hc

/-- A write keeps the canonical form. -/
theorem Memory.wf_write {m : Memory} (h : m.wf = true) {a : Nat} (b : Byte) (ha : a < memSize) :
    (m.write a b).wf = true := by
  unfold Memory.write
  split
  · exact Memory.wf_remove h a
  · next hb => exact Memory.wf_put h ha hb

/-- A bounded store keeps the canonical form. -/
theorem Memory.wf_storeBounded {m : Memory} (h : m.wf = true) (base : Nat) (bs : List Byte) :
    (m.storeBounded base bs).wf = true := by
  induction bs generalizing m base with
  | nil => exact h
  | cons b bs ih =>
    refine ih ?_ (base + 1)
    split
    · next ha => exact Memory.wf_write h b ha
    · exact h

/-- A listed byte is what its address reads as. -/
theorem Memory.read_of_mem {m : Memory} (h : m.wf = true) {c : Host.Cell} (hc : c ∈ m) :
    m.read c.1 = c.2 := by
  obtain ⟨hp, -⟩ := (Memory.wf_iff m).mp h
  clear h
  induction m with
  | nil => simp at hc
  | cons c' m ih =>
    rw [List.pairwise_cons] at hp
    rw [Memory.read_cons]
    rcases List.mem_cons.mp hc with rfl | hc
    · simp
    · rw [if_neg (Nat.ne_of_lt (hp.1 c hc))]
      exact ih hc hp.2

/-- An address that reads as it does unlisted is on no canonical list; any other is. -/
theorem Memory.mem_iff_read {m : Memory} (h : m.wf = true) (c : Host.Cell) :
    c ∈ m ↔ m.read c.1 = c.2 ∧ c.2 ≠ Memory.unlisted c.1 := by
  refine ⟨fun hc => ⟨Memory.read_of_mem h hc, (((Memory.wf_iff m).mp h).2 c hc).2⟩, ?_⟩
  rintro ⟨hr, hb⟩
  clear h
  induction m with
  | nil => exact absurd hr (fun e => hb (by rw [← e]; rfl))
  | cons c' m ih =>
    rw [Memory.read_cons] at hr
    split at hr
    · next h => exact List.mem_cons.mpr (.inl (Prod.ext h.symm hr.symm))
    · exact List.mem_cons_of_mem _ (ih hr)

/-- Equal memories are equal data: two canonical lists that read alike are one list. -/
theorem Memory.ext_read {m m' : Memory} (h : m.wf = true) (h' : m'.wf = true)
    (hr : ∀ a, m.read a = m'.read a) : m = m' := by
  have hmem : ∀ c, c ∈ m ↔ c ∈ m' := fun c => by
    rw [Memory.mem_iff_read h, Memory.mem_iff_read h', hr]
  have hp := ((Memory.wf_iff m).mp h).1
  have hp' := ((Memory.wf_iff m').mp h').1
  exact List.Perm.eq_of_pairwise (le := fun p q : Host.Cell => p.1 < q.1)
    (fun a b _ _ hab hba => absurd hab (lt_asymm hba)) hp hp'
    ((List.perm_ext_iff_of_nodup
      (hp.imp (fun hlt e => absurd hlt (by rw [e]; exact lt_irrefl _)))
      (hp'.imp (fun hlt e => absurd hlt (by rw [e]; exact lt_irrefl _)))).mpr hmem)

end Sys2Proof.Machine
end

