-- ==== Sys2Proof/Laws/State.lean ====
section
/-! SUPPORT. For every update of the state, one lemma per field: what the field reads afterwards. -/

namespace Sys2Proof.Machine

variable (s : State)

/-! ### The accessor of a general register -/

@[simp] theorem State.getV_setV_same (x : Reg) (b : Byte) : (s.setV x b).getV x = b := by
  simp [State.getV, State.setV]

theorem State.getV_setV_ne {x r : Reg} (b : Byte) (h : r ≠ x) : (s.setV x b).getV r = s.getV r := by
  have h' : x.val ≠ r.val := fun e => h (Fin.ext e.symm)
  simp [State.getV, State.setV, h']

theorem State.getV_setV (x r : Reg) (b : Byte) :
    (s.setV x b).getV r = if r = x then b else s.getV r := by
  split
  · next h => rw [h, State.getV_setV_same]
  · next h => exact State.getV_setV_ne s b h

/-- A register file is what its accessor reads. -/
theorem State.v_ext {s t : State} (h : ∀ r, t.getV r = s.getV r) : t.v = s.v :=
  Vector.ext fun i hi => h ⟨i, hi⟩

/-! ### setV -/

@[simp] theorem State.setV_v (x : Reg) (b : Byte) : (s.setV x b).v = s.v.set x.val b := rfl
@[simp] theorem State.setV_i (x : Reg) (b : Byte) : (s.setV x b).i = s.i := rfl
@[simp] theorem State.setV_pc (x : Reg) (b : Byte) : (s.setV x b).pc = s.pc := rfl
@[simp] theorem State.setV_sp (x : Reg) (b : Byte) : (s.setV x b).sp = s.sp := rfl
@[simp] theorem State.setV_stack (x : Reg) (b : Byte) : (s.setV x b).stack = s.stack := rfl
@[simp] theorem State.setV_dt (x : Reg) (b : Byte) : (s.setV x b).dt = s.dt := rfl
@[simp] theorem State.setV_st (x : Reg) (b : Byte) : (s.setV x b).st = s.st := rfl
@[simp] theorem State.setV_mem (x : Reg) (b : Byte) : (s.setV x b).mem = s.mem := rfl
@[simp] theorem State.setV_fb (x : Reg) (b : Byte) : (s.setV x b).fb = s.fb := rfl
@[simp] theorem State.setV_key (x : Reg) (b : Byte) : (s.setV x b).key = s.key := rfl
@[simp] theorem State.setV_status (x : Reg) (b : Byte) : (s.setV x b).status = s.status := rfl
@[simp] theorem State.setV_draws (x : Reg) (b : Byte) : (s.setV x b).draws = s.draws := rfl
@[simp] theorem State.setV_inputs (x : Reg) (b : Byte) : (s.setV x b).inputs = s.inputs := rfl

/-! ### setRegs -/

@[simp] theorem State.setRegs_v (w : Vector Byte 16) : (s.setRegs w).v = w := rfl
@[simp] theorem State.setRegs_i (w : Vector Byte 16) : (s.setRegs w).i = s.i := rfl
@[simp] theorem State.setRegs_pc (w : Vector Byte 16) : (s.setRegs w).pc = s.pc := rfl
@[simp] theorem State.setRegs_sp (w : Vector Byte 16) : (s.setRegs w).sp = s.sp := rfl
@[simp] theorem State.setRegs_stack (w : Vector Byte 16) : (s.setRegs w).stack = s.stack := rfl
@[simp] theorem State.setRegs_dt (w : Vector Byte 16) : (s.setRegs w).dt = s.dt := rfl
@[simp] theorem State.setRegs_st (w : Vector Byte 16) : (s.setRegs w).st = s.st := rfl
@[simp] theorem State.setRegs_mem (w : Vector Byte 16) : (s.setRegs w).mem = s.mem := rfl
@[simp] theorem State.setRegs_fb (w : Vector Byte 16) : (s.setRegs w).fb = s.fb := rfl
@[simp] theorem State.setRegs_key (w : Vector Byte 16) : (s.setRegs w).key = s.key := rfl
@[simp] theorem State.setRegs_status (w : Vector Byte 16) : (s.setRegs w).status = s.status := rfl
@[simp] theorem State.setRegs_draws (w : Vector Byte 16) : (s.setRegs w).draws = s.draws := rfl
@[simp] theorem State.setRegs_inputs (w : Vector Byte 16) : (s.setRegs w).inputs = s.inputs := rfl

/-! ### setI -/

@[simp] theorem State.setI_v (w : Word) : (s.setI w).v = s.v := rfl
@[simp] theorem State.setI_i (w : Word) : (s.setI w).i = w := rfl
@[simp] theorem State.setI_pc (w : Word) : (s.setI w).pc = s.pc := rfl
@[simp] theorem State.setI_sp (w : Word) : (s.setI w).sp = s.sp := rfl
@[simp] theorem State.setI_stack (w : Word) : (s.setI w).stack = s.stack := rfl
@[simp] theorem State.setI_dt (w : Word) : (s.setI w).dt = s.dt := rfl
@[simp] theorem State.setI_st (w : Word) : (s.setI w).st = s.st := rfl
@[simp] theorem State.setI_mem (w : Word) : (s.setI w).mem = s.mem := rfl
@[simp] theorem State.setI_fb (w : Word) : (s.setI w).fb = s.fb := rfl
@[simp] theorem State.setI_key (w : Word) : (s.setI w).key = s.key := rfl
@[simp] theorem State.setI_status (w : Word) : (s.setI w).status = s.status := rfl
@[simp] theorem State.setI_draws (w : Word) : (s.setI w).draws = s.draws := rfl
@[simp] theorem State.setI_inputs (w : Word) : (s.setI w).inputs = s.inputs := rfl
@[simp] theorem State.setI_getV (w : Word) (r : Reg) :
    (s.setI w).getV r = s.getV r := rfl

/-! ### setPc -/

@[simp] theorem State.setPc_v (w : Word) : (s.setPc w).v = s.v := rfl
@[simp] theorem State.setPc_i (w : Word) : (s.setPc w).i = s.i := rfl
@[simp] theorem State.setPc_pc (w : Word) : (s.setPc w).pc = w := rfl
@[simp] theorem State.setPc_sp (w : Word) : (s.setPc w).sp = s.sp := rfl
@[simp] theorem State.setPc_stack (w : Word) : (s.setPc w).stack = s.stack := rfl
@[simp] theorem State.setPc_dt (w : Word) : (s.setPc w).dt = s.dt := rfl
@[simp] theorem State.setPc_st (w : Word) : (s.setPc w).st = s.st := rfl
@[simp] theorem State.setPc_mem (w : Word) : (s.setPc w).mem = s.mem := rfl
@[simp] theorem State.setPc_fb (w : Word) : (s.setPc w).fb = s.fb := rfl
@[simp] theorem State.setPc_key (w : Word) : (s.setPc w).key = s.key := rfl
@[simp] theorem State.setPc_status (w : Word) : (s.setPc w).status = s.status := rfl
@[simp] theorem State.setPc_draws (w : Word) : (s.setPc w).draws = s.draws := rfl
@[simp] theorem State.setPc_inputs (w : Word) : (s.setPc w).inputs = s.inputs := rfl
@[simp] theorem State.setPc_getV (w : Word) (r : Reg) :
    (s.setPc w).getV r = s.getV r := rfl

/-! ### setSp -/

@[simp] theorem State.setSp_v (b : Byte) : (s.setSp b).v = s.v := rfl
@[simp] theorem State.setSp_i (b : Byte) : (s.setSp b).i = s.i := rfl
@[simp] theorem State.setSp_pc (b : Byte) : (s.setSp b).pc = s.pc := rfl
@[simp] theorem State.setSp_sp (b : Byte) : (s.setSp b).sp = b := rfl
@[simp] theorem State.setSp_stack (b : Byte) : (s.setSp b).stack = s.stack := rfl
@[simp] theorem State.setSp_dt (b : Byte) : (s.setSp b).dt = s.dt := rfl
@[simp] theorem State.setSp_st (b : Byte) : (s.setSp b).st = s.st := rfl
@[simp] theorem State.setSp_mem (b : Byte) : (s.setSp b).mem = s.mem := rfl
@[simp] theorem State.setSp_fb (b : Byte) : (s.setSp b).fb = s.fb := rfl
@[simp] theorem State.setSp_key (b : Byte) : (s.setSp b).key = s.key := rfl
@[simp] theorem State.setSp_status (b : Byte) : (s.setSp b).status = s.status := rfl
@[simp] theorem State.setSp_draws (b : Byte) : (s.setSp b).draws = s.draws := rfl
@[simp] theorem State.setSp_inputs (b : Byte) : (s.setSp b).inputs = s.inputs := rfl
@[simp] theorem State.setSp_getV (b : Byte) (r : Reg) :
    (s.setSp b).getV r = s.getV r := rfl

/-! ### setStack -/

@[simp] theorem State.setStack_v (k : Vector Word 33) : (s.setStack k).v = s.v := rfl
@[simp] theorem State.setStack_i (k : Vector Word 33) : (s.setStack k).i = s.i := rfl
@[simp] theorem State.setStack_pc (k : Vector Word 33) : (s.setStack k).pc = s.pc := rfl
@[simp] theorem State.setStack_sp (k : Vector Word 33) : (s.setStack k).sp = s.sp := rfl
@[simp] theorem State.setStack_stack (k : Vector Word 33) : (s.setStack k).stack = k := rfl
@[simp] theorem State.setStack_dt (k : Vector Word 33) : (s.setStack k).dt = s.dt := rfl
@[simp] theorem State.setStack_st (k : Vector Word 33) : (s.setStack k).st = s.st := rfl
@[simp] theorem State.setStack_mem (k : Vector Word 33) : (s.setStack k).mem = s.mem := rfl
@[simp] theorem State.setStack_fb (k : Vector Word 33) : (s.setStack k).fb = s.fb := rfl
@[simp] theorem State.setStack_key (k : Vector Word 33) : (s.setStack k).key = s.key := rfl
@[simp] theorem State.setStack_status (k : Vector Word 33) :
    (s.setStack k).status = s.status := rfl
@[simp] theorem State.setStack_draws (k : Vector Word 33) : (s.setStack k).draws = s.draws := rfl
@[simp] theorem State.setStack_inputs (k : Vector Word 33) :
    (s.setStack k).inputs = s.inputs := rfl
@[simp] theorem State.setStack_getV (k : Vector Word 33) (r : Reg) :
    (s.setStack k).getV r = s.getV r := rfl

/-! ### setDt -/

@[simp] theorem State.setDt_v (b : Byte) : (s.setDt b).v = s.v := rfl
@[simp] theorem State.setDt_i (b : Byte) : (s.setDt b).i = s.i := rfl
@[simp] theorem State.setDt_pc (b : Byte) : (s.setDt b).pc = s.pc := rfl
@[simp] theorem State.setDt_sp (b : Byte) : (s.setDt b).sp = s.sp := rfl
@[simp] theorem State.setDt_stack (b : Byte) : (s.setDt b).stack = s.stack := rfl
@[simp] theorem State.setDt_dt (b : Byte) : (s.setDt b).dt = b := rfl
@[simp] theorem State.setDt_st (b : Byte) : (s.setDt b).st = s.st := rfl
@[simp] theorem State.setDt_mem (b : Byte) : (s.setDt b).mem = s.mem := rfl
@[simp] theorem State.setDt_fb (b : Byte) : (s.setDt b).fb = s.fb := rfl
@[simp] theorem State.setDt_key (b : Byte) : (s.setDt b).key = s.key := rfl
@[simp] theorem State.setDt_status (b : Byte) : (s.setDt b).status = s.status := rfl
@[simp] theorem State.setDt_draws (b : Byte) : (s.setDt b).draws = s.draws := rfl
@[simp] theorem State.setDt_inputs (b : Byte) : (s.setDt b).inputs = s.inputs := rfl
@[simp] theorem State.setDt_getV (b : Byte) (r : Reg) :
    (s.setDt b).getV r = s.getV r := rfl

/-! ### setSt -/

@[simp] theorem State.setSt_v (b : Byte) : (s.setSt b).v = s.v := rfl
@[simp] theorem State.setSt_i (b : Byte) : (s.setSt b).i = s.i := rfl
@[simp] theorem State.setSt_pc (b : Byte) : (s.setSt b).pc = s.pc := rfl
@[simp] theorem State.setSt_sp (b : Byte) : (s.setSt b).sp = s.sp := rfl
@[simp] theorem State.setSt_stack (b : Byte) : (s.setSt b).stack = s.stack := rfl
@[simp] theorem State.setSt_dt (b : Byte) : (s.setSt b).dt = s.dt := rfl
@[simp] theorem State.setSt_st (b : Byte) : (s.setSt b).st = b := rfl
@[simp] theorem State.setSt_mem (b : Byte) : (s.setSt b).mem = s.mem := rfl
@[simp] theorem State.setSt_fb (b : Byte) : (s.setSt b).fb = s.fb := rfl
@[simp] theorem State.setSt_key (b : Byte) : (s.setSt b).key = s.key := rfl
@[simp] theorem State.setSt_status (b : Byte) : (s.setSt b).status = s.status := rfl
@[simp] theorem State.setSt_draws (b : Byte) : (s.setSt b).draws = s.draws := rfl
@[simp] theorem State.setSt_inputs (b : Byte) : (s.setSt b).inputs = s.inputs := rfl
@[simp] theorem State.setSt_getV (b : Byte) (r : Reg) :
    (s.setSt b).getV r = s.getV r := rfl

/-! ### setMem -/

@[simp] theorem State.setMem_v (m : Memory) : (s.setMem m).v = s.v := rfl
@[simp] theorem State.setMem_i (m : Memory) : (s.setMem m).i = s.i := rfl
@[simp] theorem State.setMem_pc (m : Memory) : (s.setMem m).pc = s.pc := rfl
@[simp] theorem State.setMem_sp (m : Memory) : (s.setMem m).sp = s.sp := rfl
@[simp] theorem State.setMem_stack (m : Memory) : (s.setMem m).stack = s.stack := rfl
@[simp] theorem State.setMem_dt (m : Memory) : (s.setMem m).dt = s.dt := rfl
@[simp] theorem State.setMem_st (m : Memory) : (s.setMem m).st = s.st := rfl
@[simp] theorem State.setMem_mem (m : Memory) : (s.setMem m).mem = m := rfl
@[simp] theorem State.setMem_fb (m : Memory) : (s.setMem m).fb = s.fb := rfl
@[simp] theorem State.setMem_key (m : Memory) : (s.setMem m).key = s.key := rfl
@[simp] theorem State.setMem_status (m : Memory) : (s.setMem m).status = s.status := rfl
@[simp] theorem State.setMem_draws (m : Memory) : (s.setMem m).draws = s.draws := rfl
@[simp] theorem State.setMem_inputs (m : Memory) : (s.setMem m).inputs = s.inputs := rfl
@[simp] theorem State.setMem_getV (m : Memory) (r : Reg) :
    (s.setMem m).getV r = s.getV r := rfl

/-! ### setFb -/

@[simp] theorem State.setFb_v (f : Vector Row 32) : (s.setFb f).v = s.v := rfl
@[simp] theorem State.setFb_i (f : Vector Row 32) : (s.setFb f).i = s.i := rfl
@[simp] theorem State.setFb_pc (f : Vector Row 32) : (s.setFb f).pc = s.pc := rfl
@[simp] theorem State.setFb_sp (f : Vector Row 32) : (s.setFb f).sp = s.sp := rfl
@[simp] theorem State.setFb_stack (f : Vector Row 32) : (s.setFb f).stack = s.stack := rfl
@[simp] theorem State.setFb_dt (f : Vector Row 32) : (s.setFb f).dt = s.dt := rfl
@[simp] theorem State.setFb_st (f : Vector Row 32) : (s.setFb f).st = s.st := rfl
@[simp] theorem State.setFb_mem (f : Vector Row 32) : (s.setFb f).mem = s.mem := rfl
@[simp] theorem State.setFb_fb (f : Vector Row 32) : (s.setFb f).fb = f := rfl
@[simp] theorem State.setFb_key (f : Vector Row 32) : (s.setFb f).key = s.key := rfl
@[simp] theorem State.setFb_status (f : Vector Row 32) : (s.setFb f).status = s.status := rfl
@[simp] theorem State.setFb_draws (f : Vector Row 32) : (s.setFb f).draws = s.draws := rfl
@[simp] theorem State.setFb_inputs (f : Vector Row 32) : (s.setFb f).inputs = s.inputs := rfl
@[simp] theorem State.setFb_getV (f : Vector Row 32) (r : Reg) :
    (s.setFb f).getV r = s.getV r := rfl

/-! ### setKey -/

@[simp] theorem State.setKey_v (k : Vector Byte 16) : (s.setKey k).v = s.v := rfl
@[simp] theorem State.setKey_i (k : Vector Byte 16) : (s.setKey k).i = s.i := rfl
@[simp] theorem State.setKey_pc (k : Vector Byte 16) : (s.setKey k).pc = s.pc := rfl
@[simp] theorem State.setKey_sp (k : Vector Byte 16) : (s.setKey k).sp = s.sp := rfl
@[simp] theorem State.setKey_stack (k : Vector Byte 16) : (s.setKey k).stack = s.stack := rfl
@[simp] theorem State.setKey_dt (k : Vector Byte 16) : (s.setKey k).dt = s.dt := rfl
@[simp] theorem State.setKey_st (k : Vector Byte 16) : (s.setKey k).st = s.st := rfl
@[simp] theorem State.setKey_mem (k : Vector Byte 16) : (s.setKey k).mem = s.mem := rfl
@[simp] theorem State.setKey_fb (k : Vector Byte 16) : (s.setKey k).fb = s.fb := rfl
@[simp] theorem State.setKey_key (k : Vector Byte 16) : (s.setKey k).key = k := rfl
@[simp] theorem State.setKey_status (k : Vector Byte 16) : (s.setKey k).status = s.status := rfl
@[simp] theorem State.setKey_draws (k : Vector Byte 16) : (s.setKey k).draws = s.draws := rfl
@[simp] theorem State.setKey_inputs (k : Vector Byte 16) : (s.setKey k).inputs = s.inputs := rfl
@[simp] theorem State.setKey_getV (k : Vector Byte 16) (r : Reg) :
    (s.setKey k).getV r = s.getV r := rfl

/-! ### setStatus -/

@[simp] theorem State.setStatus_v (t : Status) : (s.setStatus t).v = s.v := rfl
@[simp] theorem State.setStatus_i (t : Status) : (s.setStatus t).i = s.i := rfl
@[simp] theorem State.setStatus_pc (t : Status) : (s.setStatus t).pc = s.pc := rfl
@[simp] theorem State.setStatus_sp (t : Status) : (s.setStatus t).sp = s.sp := rfl
@[simp] theorem State.setStatus_stack (t : Status) : (s.setStatus t).stack = s.stack := rfl
@[simp] theorem State.setStatus_dt (t : Status) : (s.setStatus t).dt = s.dt := rfl
@[simp] theorem State.setStatus_st (t : Status) : (s.setStatus t).st = s.st := rfl
@[simp] theorem State.setStatus_mem (t : Status) : (s.setStatus t).mem = s.mem := rfl
@[simp] theorem State.setStatus_fb (t : Status) : (s.setStatus t).fb = s.fb := rfl
@[simp] theorem State.setStatus_key (t : Status) : (s.setStatus t).key = s.key := rfl
@[simp] theorem State.setStatus_status (t : Status) : (s.setStatus t).status = t := rfl
@[simp] theorem State.setStatus_draws (t : Status) : (s.setStatus t).draws = s.draws := rfl
@[simp] theorem State.setStatus_inputs (t : Status) : (s.setStatus t).inputs = s.inputs := rfl
@[simp] theorem State.setStatus_getV (t : Status) (r : Reg) :
    (s.setStatus t).getV r = s.getV r := rfl

/-! ### setDraws -/

@[simp] theorem State.setDraws_v (n : Nat) : (s.setDraws n).v = s.v := rfl
@[simp] theorem State.setDraws_i (n : Nat) : (s.setDraws n).i = s.i := rfl
@[simp] theorem State.setDraws_pc (n : Nat) : (s.setDraws n).pc = s.pc := rfl
@[simp] theorem State.setDraws_sp (n : Nat) : (s.setDraws n).sp = s.sp := rfl
@[simp] theorem State.setDraws_stack (n : Nat) : (s.setDraws n).stack = s.stack := rfl
@[simp] theorem State.setDraws_dt (n : Nat) : (s.setDraws n).dt = s.dt := rfl
@[simp] theorem State.setDraws_st (n : Nat) : (s.setDraws n).st = s.st := rfl
@[simp] theorem State.setDraws_mem (n : Nat) : (s.setDraws n).mem = s.mem := rfl
@[simp] theorem State.setDraws_fb (n : Nat) : (s.setDraws n).fb = s.fb := rfl
@[simp] theorem State.setDraws_key (n : Nat) : (s.setDraws n).key = s.key := rfl
@[simp] theorem State.setDraws_status (n : Nat) : (s.setDraws n).status = s.status := rfl
@[simp] theorem State.setDraws_draws (n : Nat) : (s.setDraws n).draws = n := rfl
@[simp] theorem State.setDraws_inputs (n : Nat) : (s.setDraws n).inputs = s.inputs := rfl
@[simp] theorem State.setDraws_getV (n : Nat) (r : Reg) :
    (s.setDraws n).getV r = s.getV r := rfl

/-! ### setInputs -/

@[simp] theorem State.setInputs_v (l : List AgentStep) : (s.setInputs l).v = s.v := rfl
@[simp] theorem State.setInputs_i (l : List AgentStep) : (s.setInputs l).i = s.i := rfl
@[simp] theorem State.setInputs_pc (l : List AgentStep) : (s.setInputs l).pc = s.pc := rfl
@[simp] theorem State.setInputs_sp (l : List AgentStep) : (s.setInputs l).sp = s.sp := rfl
@[simp] theorem State.setInputs_stack (l : List AgentStep) : (s.setInputs l).stack = s.stack := rfl
@[simp] theorem State.setInputs_dt (l : List AgentStep) : (s.setInputs l).dt = s.dt := rfl
@[simp] theorem State.setInputs_st (l : List AgentStep) : (s.setInputs l).st = s.st := rfl
@[simp] theorem State.setInputs_mem (l : List AgentStep) : (s.setInputs l).mem = s.mem := rfl
@[simp] theorem State.setInputs_fb (l : List AgentStep) : (s.setInputs l).fb = s.fb := rfl
@[simp] theorem State.setInputs_key (l : List AgentStep) : (s.setInputs l).key = s.key := rfl
@[simp] theorem State.setInputs_status (l : List AgentStep) :
    (s.setInputs l).status = s.status := rfl
@[simp] theorem State.setInputs_draws (l : List AgentStep) : (s.setInputs l).draws = s.draws := rfl
@[simp] theorem State.setInputs_inputs (l : List AgentStep) : (s.setInputs l).inputs = l := rfl
@[simp] theorem State.setInputs_getV (l : List AgentStep) (r : Reg) :
    (s.setInputs l).getV r = s.getV r := rfl

/-! ### advance -/

@[simp] theorem State.advance_v : (s.advance).v = s.v := rfl
@[simp] theorem State.advance_i : (s.advance).i = s.i := rfl
@[simp] theorem State.advance_pc : (s.advance).pc = s.pc + 2 := rfl
@[simp] theorem State.advance_sp : (s.advance).sp = s.sp := rfl
@[simp] theorem State.advance_stack : (s.advance).stack = s.stack := rfl
@[simp] theorem State.advance_dt : (s.advance).dt = s.dt := rfl
@[simp] theorem State.advance_st : (s.advance).st = s.st := rfl
@[simp] theorem State.advance_mem : (s.advance).mem = s.mem := rfl
@[simp] theorem State.advance_fb : (s.advance).fb = s.fb := rfl
@[simp] theorem State.advance_key : (s.advance).key = s.key := rfl
@[simp] theorem State.advance_status : (s.advance).status = s.status := rfl
@[simp] theorem State.advance_draws : (s.advance).draws = s.draws := rfl
@[simp] theorem State.advance_inputs : (s.advance).inputs = s.inputs := rfl
@[simp] theorem State.advance_getV (r : Reg) :
    (s.advance).getV r = s.getV r := rfl

/-! ### skipIf -/

@[simp] theorem State.skipIf_v (c : Bool) : (s.skipIf c).v = s.v := rfl
@[simp] theorem State.skipIf_i (c : Bool) : (s.skipIf c).i = s.i := rfl
@[simp] theorem State.skipIf_pc (c : Bool) : (s.skipIf c).pc = s.pc + if c then 4 else 2 := rfl
@[simp] theorem State.skipIf_sp (c : Bool) : (s.skipIf c).sp = s.sp := rfl
@[simp] theorem State.skipIf_stack (c : Bool) : (s.skipIf c).stack = s.stack := rfl
@[simp] theorem State.skipIf_dt (c : Bool) : (s.skipIf c).dt = s.dt := rfl
@[simp] theorem State.skipIf_st (c : Bool) : (s.skipIf c).st = s.st := rfl
@[simp] theorem State.skipIf_mem (c : Bool) : (s.skipIf c).mem = s.mem := rfl
@[simp] theorem State.skipIf_fb (c : Bool) : (s.skipIf c).fb = s.fb := rfl
@[simp] theorem State.skipIf_key (c : Bool) : (s.skipIf c).key = s.key := rfl
@[simp] theorem State.skipIf_status (c : Bool) : (s.skipIf c).status = s.status := rfl
@[simp] theorem State.skipIf_draws (c : Bool) : (s.skipIf c).draws = s.draws := rfl
@[simp] theorem State.skipIf_inputs (c : Bool) : (s.skipIf c).inputs = s.inputs := rfl
@[simp] theorem State.skipIf_getV (c : Bool) (r : Reg) :
    (s.skipIf c).getV r = s.getV r := rfl

/-! ### raise -/

@[simp] theorem State.raise_v (e : ErrKind) (bs : Option (Byte × Byte)) :
    (s.raise e bs).v = s.v := rfl
@[simp] theorem State.raise_i (e : ErrKind) (bs : Option (Byte × Byte)) :
    (s.raise e bs).i = s.i := rfl
@[simp] theorem State.raise_pc (e : ErrKind) (bs : Option (Byte × Byte)) :
    (s.raise e bs).pc = s.pc := rfl
@[simp] theorem State.raise_sp (e : ErrKind) (bs : Option (Byte × Byte)) :
    (s.raise e bs).sp = s.sp := rfl
@[simp] theorem State.raise_stack (e : ErrKind) (bs : Option (Byte × Byte)) :
    (s.raise e bs).stack = s.stack := rfl
@[simp] theorem State.raise_dt (e : ErrKind) (bs : Option (Byte × Byte)) :
    (s.raise e bs).dt = s.dt := rfl
@[simp] theorem State.raise_st (e : ErrKind) (bs : Option (Byte × Byte)) :
    (s.raise e bs).st = s.st := rfl
@[simp] theorem State.raise_mem (e : ErrKind) (bs : Option (Byte × Byte)) :
    (s.raise e bs).mem = s.mem := rfl
@[simp] theorem State.raise_fb (e : ErrKind) (bs : Option (Byte × Byte)) :
    (s.raise e bs).fb = s.fb := rfl
@[simp] theorem State.raise_key (e : ErrKind) (bs : Option (Byte × Byte)) :
    (s.raise e bs).key = s.key := rfl
@[simp] theorem State.raise_status (e : ErrKind) (bs : Option (Byte × Byte)) :
    (s.raise e bs).status = .halted { kind := e, pc := s.pc, bytes := bs } := rfl
@[simp] theorem State.raise_draws (e : ErrKind) (bs : Option (Byte × Byte)) :
    (s.raise e bs).draws = s.draws := rfl
@[simp] theorem State.raise_inputs (e : ErrKind) (bs : Option (Byte × Byte)) :
    (s.raise e bs).inputs = s.inputs := rfl
@[simp] theorem State.raise_getV (e : ErrKind) (bs : Option (Byte × Byte)) (r : Reg) :
    (s.raise e bs).getV r = s.getV r := rfl

/-! ### raiseFrom -/

@[simp] theorem State.raiseFrom_v (ins : Instr) (e : ErrKind) : (s.raiseFrom ins e).v = s.v := rfl
@[simp] theorem State.raiseFrom_i (ins : Instr) (e : ErrKind) : (s.raiseFrom ins e).i = s.i := rfl
@[simp] theorem State.raiseFrom_pc (ins : Instr) (e : ErrKind) :
    (s.raiseFrom ins e).pc = s.pc := rfl
@[simp] theorem State.raiseFrom_sp (ins : Instr) (e : ErrKind) :
    (s.raiseFrom ins e).sp = s.sp := rfl
@[simp] theorem State.raiseFrom_stack (ins : Instr) (e : ErrKind) :
    (s.raiseFrom ins e).stack = s.stack := rfl
@[simp] theorem State.raiseFrom_dt (ins : Instr) (e : ErrKind) :
    (s.raiseFrom ins e).dt = s.dt := rfl
@[simp] theorem State.raiseFrom_st (ins : Instr) (e : ErrKind) :
    (s.raiseFrom ins e).st = s.st := rfl
@[simp] theorem State.raiseFrom_mem (ins : Instr) (e : ErrKind) :
    (s.raiseFrom ins e).mem = s.mem := rfl
@[simp] theorem State.raiseFrom_fb (ins : Instr) (e : ErrKind) :
    (s.raiseFrom ins e).fb = s.fb := rfl
@[simp] theorem State.raiseFrom_key (ins : Instr) (e : ErrKind) :
    (s.raiseFrom ins e).key = s.key := rfl
@[simp] theorem State.raiseFrom_status (ins : Instr) (e : ErrKind) :
    (s.raiseFrom ins e).status = .halted { kind := e, pc := s.pc, bytes := some (firstByte (encode ins), secondByte (encode ins)) } := rfl
@[simp] theorem State.raiseFrom_draws (ins : Instr) (e : ErrKind) :
    (s.raiseFrom ins e).draws = s.draws := rfl
@[simp] theorem State.raiseFrom_inputs (ins : Instr) (e : ErrKind) :
    (s.raiseFrom ins e).inputs = s.inputs := rfl
@[simp] theorem State.raiseFrom_getV (ins : Instr) (e : ErrKind) (r : Reg) :
    (s.raiseFrom ins e).getV r = s.getV r := rfl

/-! ### push -/

@[simp] theorem State.push_v (w : Word) (h : s.sp.toNat < stackCapacity) :
    (s.push w h).v = s.v := rfl
@[simp] theorem State.push_i (w : Word) (h : s.sp.toNat < stackCapacity) :
    (s.push w h).i = s.i := rfl
@[simp] theorem State.push_pc (w : Word) (h : s.sp.toNat < stackCapacity) :
    (s.push w h).pc = s.pc := rfl
@[simp] theorem State.push_sp (w : Word) (h : s.sp.toNat < stackCapacity) :
    (s.push w h).sp = s.sp + 1 := rfl
@[simp] theorem State.push_stack (w : Word) (h : s.sp.toNat < stackCapacity) :
    (s.push w h).stack = s.stack.set (s.sp.toNat + 1) w (Nat.succ_lt_succ h) := rfl
@[simp] theorem State.push_dt (w : Word) (h : s.sp.toNat < stackCapacity) :
    (s.push w h).dt = s.dt := rfl
@[simp] theorem State.push_st (w : Word) (h : s.sp.toNat < stackCapacity) :
    (s.push w h).st = s.st := rfl
@[simp] theorem State.push_mem (w : Word) (h : s.sp.toNat < stackCapacity) :
    (s.push w h).mem = s.mem := rfl
@[simp] theorem State.push_fb (w : Word) (h : s.sp.toNat < stackCapacity) :
    (s.push w h).fb = s.fb := rfl
@[simp] theorem State.push_key (w : Word) (h : s.sp.toNat < stackCapacity) :
    (s.push w h).key = s.key := rfl
@[simp] theorem State.push_status (w : Word) (h : s.sp.toNat < stackCapacity) :
    (s.push w h).status = s.status := rfl
@[simp] theorem State.push_draws (w : Word) (h : s.sp.toNat < stackCapacity) :
    (s.push w h).draws = s.draws := rfl
@[simp] theorem State.push_inputs (w : Word) (h : s.sp.toNat < stackCapacity) :
    (s.push w h).inputs = s.inputs := rfl
@[simp] theorem State.push_getV (w : Word) (h : s.sp.toNat < stackCapacity) (r : Reg) :
    (s.push w h).getV r = s.getV r := rfl

/-! ### pressKey -/

@[simp] theorem State.pressKey_v (k : Key) : (s.pressKey k).v = s.v := rfl
@[simp] theorem State.pressKey_i (k : Key) : (s.pressKey k).i = s.i := rfl
@[simp] theorem State.pressKey_pc (k : Key) : (s.pressKey k).pc = s.pc := rfl
@[simp] theorem State.pressKey_sp (k : Key) : (s.pressKey k).sp = s.sp := rfl
@[simp] theorem State.pressKey_stack (k : Key) : (s.pressKey k).stack = s.stack := rfl
@[simp] theorem State.pressKey_dt (k : Key) : (s.pressKey k).dt = s.dt := rfl
@[simp] theorem State.pressKey_st (k : Key) : (s.pressKey k).st = s.st := rfl
@[simp] theorem State.pressKey_mem (k : Key) : (s.pressKey k).mem = s.mem := rfl
@[simp] theorem State.pressKey_fb (k : Key) : (s.pressKey k).fb = s.fb := rfl
@[simp] theorem State.pressKey_key (k : Key) : (s.pressKey k).key = s.key.set k.val 1 := rfl
@[simp] theorem State.pressKey_status (k : Key) : (s.pressKey k).status = s.status := rfl
@[simp] theorem State.pressKey_draws (k : Key) : (s.pressKey k).draws = s.draws := rfl
@[simp] theorem State.pressKey_inputs (k : Key) : (s.pressKey k).inputs = s.inputs := rfl
@[simp] theorem State.pressKey_getV (k : Key) (r : Reg) :
    (s.pressKey k).getV r = s.getV r := rfl

/-! ### clearKeys -/

@[simp] theorem State.clearKeys_v : (s.clearKeys).v = s.v := rfl
@[simp] theorem State.clearKeys_i : (s.clearKeys).i = s.i := rfl
@[simp] theorem State.clearKeys_pc : (s.clearKeys).pc = s.pc := rfl
@[simp] theorem State.clearKeys_sp : (s.clearKeys).sp = s.sp := rfl
@[simp] theorem State.clearKeys_stack : (s.clearKeys).stack = s.stack := rfl
@[simp] theorem State.clearKeys_dt : (s.clearKeys).dt = s.dt := rfl
@[simp] theorem State.clearKeys_st : (s.clearKeys).st = s.st := rfl
@[simp] theorem State.clearKeys_mem : (s.clearKeys).mem = s.mem := rfl
@[simp] theorem State.clearKeys_fb : (s.clearKeys).fb = s.fb := rfl
@[simp] theorem State.clearKeys_key : (s.clearKeys).key = Vector.replicate 16 0 := rfl
@[simp] theorem State.clearKeys_status : (s.clearKeys).status = s.status := rfl
@[simp] theorem State.clearKeys_draws : (s.clearKeys).draws = s.draws := rfl
@[simp] theorem State.clearKeys_inputs : (s.clearKeys).inputs = s.inputs := rfl
@[simp] theorem State.clearKeys_getV (r : Reg) :
    (s.clearKeys).getV r = s.getV r := rfl

/-! ### afterDraw -/

@[simp] theorem State.afterDraw_v : (s.afterDraw).v = s.v := rfl
@[simp] theorem State.afterDraw_i : (s.afterDraw).i = s.i := rfl
@[simp] theorem State.afterDraw_pc : (s.afterDraw).pc = s.pc := rfl
@[simp] theorem State.afterDraw_sp : (s.afterDraw).sp = s.sp := rfl
@[simp] theorem State.afterDraw_stack : (s.afterDraw).stack = s.stack := rfl
@[simp] theorem State.afterDraw_dt : (s.afterDraw).dt = s.dt := rfl
@[simp] theorem State.afterDraw_st : (s.afterDraw).st = s.st := rfl
@[simp] theorem State.afterDraw_mem : (s.afterDraw).mem = s.mem := rfl
@[simp] theorem State.afterDraw_fb : (s.afterDraw).fb = s.fb := rfl
@[simp] theorem State.afterDraw_key : (s.afterDraw).key = s.key := rfl
@[simp] theorem State.afterDraw_status : (s.afterDraw).status = s.status := rfl
@[simp] theorem State.afterDraw_draws : (s.afterDraw).draws = s.draws + 1 := rfl
@[simp] theorem State.afterDraw_inputs : (s.afterDraw).inputs = s.inputs := rfl
@[simp] theorem State.afterDraw_getV (r : Reg) :
    (s.afterDraw).getV r = s.getV r := rfl

/-! ### stop -/

@[simp] theorem State.stop_v : (s.stop).v = s.v := rfl
@[simp] theorem State.stop_i : (s.stop).i = s.i := rfl
@[simp] theorem State.stop_pc : (s.stop).pc = s.pc := rfl
@[simp] theorem State.stop_sp : (s.stop).sp = s.sp := rfl
@[simp] theorem State.stop_stack : (s.stop).stack = s.stack := rfl
@[simp] theorem State.stop_dt : (s.stop).dt = s.dt := rfl
@[simp] theorem State.stop_st : (s.stop).st = s.st := rfl
@[simp] theorem State.stop_mem : (s.stop).mem = s.mem := rfl
@[simp] theorem State.stop_fb : (s.stop).fb = s.fb := rfl
@[simp] theorem State.stop_key : (s.stop).key = s.key := rfl
@[simp] theorem State.stop_status : (s.stop).status = .stopped := rfl
@[simp] theorem State.stop_draws : (s.stop).draws = s.draws := rfl
@[simp] theorem State.stop_inputs : (s.stop).inputs = s.inputs.tail := rfl
@[simp] theorem State.stop_getV (r : Reg) :
    (s.stop).getV r = s.getV r := rfl

/-! ### result -/

@[simp] theorem State.result_v (x : Reg) (b : Byte) : (s.result x b).v = s.v.set x.val b := rfl
@[simp] theorem State.result_i (x : Reg) (b : Byte) : (s.result x b).i = s.i := rfl
@[simp] theorem State.result_pc (x : Reg) (b : Byte) : (s.result x b).pc = s.pc + 2 := rfl
@[simp] theorem State.result_sp (x : Reg) (b : Byte) : (s.result x b).sp = s.sp := rfl
@[simp] theorem State.result_stack (x : Reg) (b : Byte) : (s.result x b).stack = s.stack := rfl
@[simp] theorem State.result_dt (x : Reg) (b : Byte) : (s.result x b).dt = s.dt := rfl
@[simp] theorem State.result_st (x : Reg) (b : Byte) : (s.result x b).st = s.st := rfl
@[simp] theorem State.result_mem (x : Reg) (b : Byte) : (s.result x b).mem = s.mem := rfl
@[simp] theorem State.result_fb (x : Reg) (b : Byte) : (s.result x b).fb = s.fb := rfl
@[simp] theorem State.result_key (x : Reg) (b : Byte) : (s.result x b).key = s.key := rfl
@[simp] theorem State.result_status (x : Reg) (b : Byte) : (s.result x b).status = s.status := rfl
@[simp] theorem State.result_draws (x : Reg) (b : Byte) : (s.result x b).draws = s.draws := rfl
@[simp] theorem State.result_inputs (x : Reg) (b : Byte) : (s.result x b).inputs = s.inputs := rfl

/-! ### resultFlag -/

@[simp] theorem State.resultFlag_v (x : Reg) (b f : Byte) :
    (s.resultFlag x b f).v = (s.v.set x.val b).set flagReg.val f := rfl
@[simp] theorem State.resultFlag_i (x : Reg) (b f : Byte) : (s.resultFlag x b f).i = s.i := rfl
@[simp] theorem State.resultFlag_pc (x : Reg) (b f : Byte) :
    (s.resultFlag x b f).pc = s.pc + 2 := rfl
@[simp] theorem State.resultFlag_sp (x : Reg) (b f : Byte) : (s.resultFlag x b f).sp = s.sp := rfl
@[simp] theorem State.resultFlag_stack (x : Reg) (b f : Byte) :
    (s.resultFlag x b f).stack = s.stack := rfl
@[simp] theorem State.resultFlag_dt (x : Reg) (b f : Byte) : (s.resultFlag x b f).dt = s.dt := rfl
@[simp] theorem State.resultFlag_st (x : Reg) (b f : Byte) : (s.resultFlag x b f).st = s.st := rfl
@[simp] theorem State.resultFlag_mem (x : Reg) (b f : Byte) :
    (s.resultFlag x b f).mem = s.mem := rfl
@[simp] theorem State.resultFlag_fb (x : Reg) (b f : Byte) : (s.resultFlag x b f).fb = s.fb := rfl
@[simp] theorem State.resultFlag_key (x : Reg) (b f : Byte) :
    (s.resultFlag x b f).key = s.key := rfl
@[simp] theorem State.resultFlag_status (x : Reg) (b f : Byte) :
    (s.resultFlag x b f).status = s.status := rfl
@[simp] theorem State.resultFlag_draws (x : Reg) (b f : Byte) :
    (s.resultFlag x b f).draws = s.draws := rfl
@[simp] theorem State.resultFlag_inputs (x : Reg) (b f : Byte) :
    (s.resultFlag x b f).inputs = s.inputs := rfl

/-! ### popSp: only SP may change -/

@[simp] theorem State.popSp_v : s.popSp.v = s.v := by
  unfold State.popSp; split <;> rfl
@[simp] theorem State.popSp_i : s.popSp.i = s.i := by
  unfold State.popSp; split <;> rfl
@[simp] theorem State.popSp_pc : s.popSp.pc = s.pc := by
  unfold State.popSp; split <;> rfl
@[simp] theorem State.popSp_sp : s.popSp.sp = if s.sp = 0 then 0 else s.sp - 1 := by
  unfold State.popSp; split
  · next h => exact h
  · rfl
@[simp] theorem State.popSp_stack : s.popSp.stack = s.stack := by
  unfold State.popSp; split <;> rfl
@[simp] theorem State.popSp_dt : s.popSp.dt = s.dt := by
  unfold State.popSp; split <;> rfl
@[simp] theorem State.popSp_st : s.popSp.st = s.st := by
  unfold State.popSp; split <;> rfl
@[simp] theorem State.popSp_mem : s.popSp.mem = s.mem := by
  unfold State.popSp; split <;> rfl
@[simp] theorem State.popSp_fb : s.popSp.fb = s.fb := by
  unfold State.popSp; split <;> rfl
@[simp] theorem State.popSp_key : s.popSp.key = s.key := by
  unfold State.popSp; split <;> rfl
@[simp] theorem State.popSp_status : s.popSp.status = s.status := by
  unfold State.popSp; split <;> rfl
@[simp] theorem State.popSp_draws : s.popSp.draws = s.draws := by
  unfold State.popSp; split <;> rfl
@[simp] theorem State.popSp_inputs : s.popSp.inputs = s.inputs := by
  unfold State.popSp; split <;> rfl

/-! ### pressKeys and keysLand: only the keypad (and the schedule) may change -/

@[simp] theorem State.pressKeys_v (ks : List Key) : (s.pressKeys ks).v = s.v := by
  induction ks generalizing s with
  | nil => rfl
  | cons k ks ih => exact (ih (s.pressKey k)).trans rfl
@[simp] theorem State.pressKeys_i (ks : List Key) : (s.pressKeys ks).i = s.i := by
  induction ks generalizing s with
  | nil => rfl
  | cons k ks ih => exact (ih (s.pressKey k)).trans rfl
@[simp] theorem State.pressKeys_pc (ks : List Key) : (s.pressKeys ks).pc = s.pc := by
  induction ks generalizing s with
  | nil => rfl
  | cons k ks ih => exact (ih (s.pressKey k)).trans rfl
@[simp] theorem State.pressKeys_sp (ks : List Key) : (s.pressKeys ks).sp = s.sp := by
  induction ks generalizing s with
  | nil => rfl
  | cons k ks ih => exact (ih (s.pressKey k)).trans rfl
@[simp] theorem State.pressKeys_stack (ks : List Key) : (s.pressKeys ks).stack = s.stack := by
  induction ks generalizing s with
  | nil => rfl
  | cons k ks ih => exact (ih (s.pressKey k)).trans rfl
@[simp] theorem State.pressKeys_dt (ks : List Key) : (s.pressKeys ks).dt = s.dt := by
  induction ks generalizing s with
  | nil => rfl
  | cons k ks ih => exact (ih (s.pressKey k)).trans rfl
@[simp] theorem State.pressKeys_st (ks : List Key) : (s.pressKeys ks).st = s.st := by
  induction ks generalizing s with
  | nil => rfl
  | cons k ks ih => exact (ih (s.pressKey k)).trans rfl
@[simp] theorem State.pressKeys_mem (ks : List Key) : (s.pressKeys ks).mem = s.mem := by
  induction ks generalizing s with
  | nil => rfl
  | cons k ks ih => exact (ih (s.pressKey k)).trans rfl
@[simp] theorem State.pressKeys_fb (ks : List Key) : (s.pressKeys ks).fb = s.fb := by
  induction ks generalizing s with
  | nil => rfl
  | cons k ks ih => exact (ih (s.pressKey k)).trans rfl
@[simp] theorem State.pressKeys_status (ks : List Key) : (s.pressKeys ks).status = s.status := by
  induction ks generalizing s with
  | nil => rfl
  | cons k ks ih => exact (ih (s.pressKey k)).trans rfl
@[simp] theorem State.pressKeys_draws (ks : List Key) : (s.pressKeys ks).draws = s.draws := by
  induction ks generalizing s with
  | nil => rfl
  | cons k ks ih => exact (ih (s.pressKey k)).trans rfl
@[simp] theorem State.pressKeys_inputs (ks : List Key) : (s.pressKeys ks).inputs = s.inputs := by
  induction ks generalizing s with
  | nil => rfl
  | cons k ks ih => exact (ih (s.pressKey k)).trans rfl
@[simp] theorem State.keysLand_v (ks : List Key) : (s.keysLand ks).v = s.v := by
  simp [State.keysLand]
@[simp] theorem State.keysLand_i (ks : List Key) : (s.keysLand ks).i = s.i := by
  simp [State.keysLand]
@[simp] theorem State.keysLand_pc (ks : List Key) : (s.keysLand ks).pc = s.pc := by
  simp [State.keysLand]
@[simp] theorem State.keysLand_sp (ks : List Key) : (s.keysLand ks).sp = s.sp := by
  simp [State.keysLand]
@[simp] theorem State.keysLand_stack (ks : List Key) : (s.keysLand ks).stack = s.stack := by
  simp [State.keysLand]
@[simp] theorem State.keysLand_dt (ks : List Key) : (s.keysLand ks).dt = s.dt := by
  simp [State.keysLand]
@[simp] theorem State.keysLand_st (ks : List Key) : (s.keysLand ks).st = s.st := by
  simp [State.keysLand]
@[simp] theorem State.keysLand_mem (ks : List Key) : (s.keysLand ks).mem = s.mem := by
  simp [State.keysLand]
@[simp] theorem State.keysLand_fb (ks : List Key) : (s.keysLand ks).fb = s.fb := by
  simp [State.keysLand]
@[simp] theorem State.keysLand_status (ks : List Key) : (s.keysLand ks).status = s.status := by
  simp [State.keysLand]
@[simp] theorem State.keysLand_draws (ks : List Key) : (s.keysLand ks).draws = s.draws := by
  simp [State.keysLand]
@[simp] theorem State.keysLand_inputs (ks : List Key) :
    (s.keysLand ks).inputs = s.inputs.tail := by
  simp [State.keysLand]

@[simp] theorem State.keysLand_getV (ks : List Key) (r : Reg) :
    (s.keysLand ks).getV r = s.getV r := by
  simp [State.getV]

end Sys2Proof.Machine
end

