-- ==== Sys2Proof/Laws/Ops.lean ====
section
/-! SUPPORT. One lemma for each shared operation, saying once what it does. -/

namespace Sys2Proof.Machine

/-! ### Operands and flags as numbers -/

@[simp] theorem toNat_addrWord (n : Addr) : (addrWord n).toNat = n.toNat := by
  have := n.isLt
  simp [addrWord]; omega

@[simp] theorem toNat_byteWord (b : Byte) : (byteWord b).toNat = b.toNat := by
  have := b.isLt
  simp [byteWord]; omega

theorem val_keyIndex (b : Byte) : (keyIndex b).val = b.toNat % 16 := by
  show (b.extractLsb' 0 4).toNat = _
  simp [BitVec.extractLsb'_toNat]

theorem toNat_glyphAddr (b : Byte) : (glyphAddr b).toNat = 5 * b.toNat := by
  have := b.isLt
  simp [glyphAddr, glyphBytes]; omega

theorem sumByte_eq (a b : Byte) : sumByte a b = a + b := by
  apply BitVec.eq_of_toNat_eq
  simp [sumByte, wideSum, BitVec.toNat_add]

theorem diffByte_eq (a b : Byte) : diffByte a b = a - b := by
  apply BitVec.eq_of_toNat_eq
  have := b.isLt
  simp only [diffByte, BitVec.toNat_ofNat, BitVec.toNat_sub]
  congr 1
  omega

theorem shrFlag_eq (a : Byte) : shrFlag a = flagByte (a.getLsbD 0) := by
  revert a; decide

theorem shlFlag_eq (a : Byte) : shlFlag a = flagByte (a.getLsbD 3) := by
  revert a; decide

/-- A row collides exactly when a set pixel is cleared (R165). -/
theorem collides_iff (old m : Row) : collides old m = true ↔ old &&& m ≠ 0 := by
  have bit : ∀ j, ((old ^^^ m) &&& old).getLsbD j = old.getLsbD j ↔ (old &&& m).getLsbD j = false :=
    fun j => by
      rw [BitVec.getLsbD_and, BitVec.getLsbD_xor, BitVec.getLsbD_and]
      cases old.getLsbD j <;> cases m.getLsbD j <;> decide
  have key : (old ^^^ m) &&& old = old ↔ old &&& m = 0 := by
    refine ⟨fun h => BitVec.eq_of_getLsbD_eq fun j _ => ?_,
      fun h => BitVec.eq_of_getLsbD_eq fun j _ => ?_⟩
    · rw [(bit j).mp (congrArg (·.getLsbD j) h)]; exact BitVec.getLsbD_zero.symm
    · exact (bit j).mpr (h ▸ BitVec.getLsbD_zero)
  simp [collides, key]

theorem spriteOutOfBounds_iff (base n : Nat) :
    spriteOutOfBounds base n = true ↔ 0 < n ∧ 4096 ≤ base + n - 1 := by
  simp [spriteOutOfBounds]

/-- The register file a block load leaves (R145). -/
theorem getElem_loadedRegs (s : State) (r : Reg) :
    (loadedRegs s)[r.val] =
      if s.i.toNat + r.val < 4096 then s.mem.read (s.i.toNat + r.val) else s.getV r := by
  simp only [loadedRegs, Vector.getElem_mapIdx]
  rfl

/-! ### Registers after a result (R121) -/

theorem State.getV_result (s : State) (x r : Reg) (b : Byte) :
    (s.result x b).getV r = if r = x then b else s.getV r := State.getV_setV s x r b

/-- The flag is written last: it wins when x is VF. -/
theorem State.getV_resultFlag (s : State) (x r : Reg) (b f : Byte) :
    (s.resultFlag x b f).getV r = if r = flagReg then f else if r = x then b else s.getV r := by
  show ((s.setV x b).setV flagReg f).getV r = _
  rw [State.getV_setV, State.getV_setV]

/-! ### The keypad -/

theorem State.getElem_pressKey (s : State) (k j : Key) :
    (s.pressKey k).key[j.val] = if j = k then 1 else s.key[j.val] := by
  simp only [State.pressKey_key, Vector.getElem_set, Fin.ext_iff, eq_comm]

/-- Key-down events set exactly their own flags (R186). -/
theorem State.getElem_pressKeys (s : State) (ks : List Key) (j : Key) :
    (s.pressKeys ks).key[j.val] = if j ∈ ks then 1 else s.key[j.val] := by
  induction ks generalizing s with
  | nil => simp [State.pressKeys]
  | cons k ks ih =>
    have h := ih (s.pressKey k)
    rw [State.getElem_pressKey] at h
    show ((s.pressKey k).pressKeys ks).key[j.val] = _
    rw [h]
    by_cases h₁ : j ∈ ks <;> by_cases h₂ : j = k <;> simp [h₁, h₂]

/-- The key-downs of a schedule entry set exactly their own flags (R186). -/
theorem State.getElem_keysLand (s : State) (ks : List Key) (j : Key) :
    (s.keysLand ks).key[j.val] = if j ∈ ks then 1 else s.key[j.val] := by
  rw [State.keysLand, State.getElem_pressKeys, State.setInputs_key]

/-- What a clear leaves does not depend on the key-downs just before it (R238). -/
theorem State.clearKeys_pressKeys (s : State) (ks : List Key) :
    (s.pressKeys ks).clearKeys = s.clearKeys := by
  induction ks generalizing s with
  | nil => rfl
  | cons k ks ih => exact ih (s.pressKey k)

/-- The scan of R182 finds a key exactly when one is pressed, and then the lowest one. -/
theorem firstPressed_some {l : List Byte} {k n : Nat} (h : firstPressed l k = some n) :
    ∃ hn : n - k < l.length, k ≤ n ∧ l[n - k] ≠ 0 ∧ ∀ j (hj : j < n - k), l[j]'(by omega) = 0 := by
  induction l generalizing k with
  | nil => simp [firstPressed] at h
  | cons b bs ih =>
    simp only [firstPressed] at h
    split at h
    · next hb =>
      obtain ⟨h₁, h₂, h₃, h₄⟩ := ih h
      have e : n - k = (n - (k + 1)) + 1 := by omega
      refine ⟨by simp; omega, by omega, ?_, fun j hj => ?_⟩
      · simpa only [e, List.getElem_cons_succ] using h₃
      · cases j with
        | zero => exact hb
        | succ j => simpa using h₄ j (by omega)
    · next hb =>
      obtain rfl : k = n := by simpa using h
      exact ⟨by simp, le_refl _, by simpa using hb, fun j hj => by omega⟩

theorem firstPressed_none {l : List Byte} {k : Nat} (h : firstPressed l k = none) :
    ∀ b ∈ l, b = 0 := by
  induction l generalizing k with
  | nil => simp
  | cons b bs ih =>
    simp only [firstPressed] at h
    split at h
    · next hb => simpa [hb] using ih h
    · simp at h

/-! ### The end of a tick -/

theorem toNat_timerStep (t : Byte) : (timerStep t).toNat = t.toNat - 1 := by
  revert t; decide

theorem State.endTick_running {s : State} (h : s.status = .running) (late : List Key) :
    s.endTick late = (s.clearKeys.setDt (timerStep s.dt)).setSt (timerStep s.st) := by
  simp [State.endTick, h, State.clearKeys_pressKeys]

/-- After a fatal error the late key-downs still land, and nothing else happens (R96). -/
theorem State.endTick_fatal {s : State} (h : s.status ≠ .running) (late : List Key) :
    s.endTick late = s.pressKeys late := by
  unfold State.endTick
  split
  · next h' => exact absurd h' h
  · rfl

@[simp] theorem State.endTick_status (s : State) (late : List Key) :
    (s.endTick late).status = s.status := by
  by_cases h : s.status = .running
  · rw [State.endTick_running h]; rfl
  · rw [State.endTick_fatal h, State.pressKeys_status]

end Sys2Proof.Machine
end

