-- ==== Sys2Proof/Laws/Display.lean ====
section
/-! SUPPORT. What the sprite renderer does: the bits of a placed row, and the rows a draw leaves. -/

namespace Sys2Proof.Machine

/-- The column a pixel of the framebuffer has within a sprite whose left edge is at column cx: columns
wrap modulo 64 (R162). -/
def spriteColOf (cx c : Nat) : Nat := (c + 64 - cx) % 64

/-- A placed sprite byte has its bit 7 - j at column cx + j, columns wrapping (R161, R164). -/
theorem getLsbD_place (b : Byte) {cx c : Nat} (hx : cx < 64) (hc : c < 64) :
    (place b cx).getLsbD (63 - c) =
      (decide (spriteColOf cx c < 8) && b.getLsbD (7 - spriteColOf cx c)) := by
  have hmod : cx % 64 = cx := Nat.mod_eq_of_lt hx
  simp only [place, BitVec.getLsbD_rotateRight, BitVec.getLsbD_shiftLeft, hmod,
    BitVec.truncate_eq_setWidth, BitVec.getLsbD_setWidth]
  by_cases h : cx ≤ c
  · have e : spriteColOf cx c = c - cx := by unfold spriteColOf; omega
    have h₁ : 63 - c < 64 - cx := by omega
    have h₂ : cx + (63 - c) < 64 := by omega
    by_cases hj : c - cx < 8
    · have h₃ : ¬cx + (63 - c) < 56 := by omega
      have h₄ : cx + (63 - c) - 56 = 7 - (c - cx) := by omega
      have h₅ : 7 - (c - cx) < 64 := by omega
      simp [e, h₁, h₂, h₃, h₄, h₅, hj]
    · have h₃ : cx + (63 - c) < 56 := by omega
      simp [e, h₁, h₃, hj]
  · have e : spriteColOf cx c = c + 64 - cx := by unfold spriteColOf; omega
    have h₁ : ¬63 - c < 64 - cx := by omega
    have h₂ : 63 - c - (64 - cx) < 64 := by omega
    have h₂' : 63 - c < 64 := by omega
    by_cases hj : c + 64 - cx < 8
    · have h₃ : ¬63 - c - (64 - cx) < 56 := by omega
      have h₄ : 63 - c - (64 - cx) - 56 = 7 - (c + 64 - cx) := by omega
      have h₅ : 7 - (c + 64 - cx) < 64 := by omega
      simp [e, h₁, h₂, h₂', h₃, h₄, h₅, hj]
    · have h₃ : 63 - c - (64 - cx) < 56 := by omega
      simp [e, h₁, h₃, hj]

theorem spriteColumn_lt (b : Byte) : spriteColumn b < 64 := Nat.mod_lt _ (by decide)

/-- Everything the row loop of R166 does: at most 32 rows, each drawn once; every other row is kept; a
collision is one of some drawn row. -/
theorem drawRows_spec (cx cy : Nat) (bs : List Byte) (i : Nat) (fb : Vector Row 32) (hit : Bool)
    (hlen : bs.length ≤ 32) :
    (∀ k (hk : k < bs.length), (drawRows cx cy bs i (fb, hit)).1[(spriteRow cy (i + k)).val] =
        fb[(spriteRow cy (i + k)).val] ^^^ place bs[k] cx) ∧
    (∀ r : Fin 32, (∀ k < bs.length, spriteRow cy (i + k) ≠ r) →
        (drawRows cx cy bs i (fb, hit)).1[r.val] = fb[r.val]) ∧
    ((drawRows cx cy bs i (fb, hit)).2 = true ↔ hit = true ∨
      ∃ k, ∃ hk : k < bs.length, collides fb[(spriteRow cy (i + k)).val] (place bs[k] cx) = true) := by
  induction bs generalizing i fb hit with
  | nil => simp [drawRows]
  | cons b bs ih =>
    have hl : bs.length + 1 ≤ 32 := hlen
    have hne : ∀ k, 0 < k → k < bs.length + 1 → (spriteRow cy i).val ≠ (spriteRow cy (i + k)).val := by
      intro k h0 hk
      simp only [spriteRow]
      omega
    obtain ⟨h₁, h₂, h₃⟩ := ih (i + 1) (fb.set (spriteRow cy i).val
      (fb[(spriteRow cy i).val] ^^^ place b cx))
      (hit || collides fb[(spriteRow cy i).val] (place b cx)) (by omega)
    have hget : ∀ k (h0 : 0 < k) (hk : k < bs.length + 1),
        (fb.set (spriteRow cy i).val (fb[(spriteRow cy i).val] ^^^ place b cx))[
          (spriteRow cy (i + k)).val] = fb[(spriteRow cy (i + k)).val] := by
      intro k h0 hk
      rw [Vector.getElem_set_ne _ _ (hne k h0 hk)]
    have ek : ∀ k, i + 1 + k = i + (k + 1) := fun k => by omega
    refine ⟨?_, ?_, ?_⟩
    · intro k hk
      show (drawRows cx cy bs (i + 1) (_, _)).1[_] = _
      cases k with
      | zero =>
        rw [h₂ (spriteRow cy (i + 0))]
        · simp
        · intro k hk' e
          exact hne (k + 1) (by omega) (by omega) (by rw [← ek]; exact congrArg Fin.val e.symm)
      | succ k =>
        have hk' : k < bs.length := by simpa using hk
        have := h₁ k hk'
        simp only [ek] at this
        rw [this, hget (k + 1) (by omega) (by omega)]
        simp
    · intro r hr
      show (drawRows cx cy bs (i + 1) (_, _)).1[_] = _
      rw [h₂ r (fun k hk => by rw [ek]; exact hr (k + 1) (by simpa using hk))]
      exact Vector.getElem_set_ne _ _ (fun e => hr 0 (by simp) (Fin.ext e))
    · show (drawRows cx cy bs (i + 1) (_, _)).2 = true ↔ _
      rw [h₃, Bool.or_eq_true, or_assoc]
      refine or_congr_right ⟨?_, ?_⟩
      · rintro (h | ⟨k, hk, h⟩)
        · exact ⟨0, by simp, by simpa using h⟩
        · simp only [ek] at h
          rw [hget (k + 1) (by omega) (by omega)] at h
          exact ⟨k + 1, by simpa using hk, by simpa using h⟩
      · rintro ⟨k, hk, h⟩
        cases k with
        | zero => exact .inl (by simpa using h)
        | succ k =>
          have hk' : k < bs.length := by simpa using hk
          refine .inr ⟨k, hk', ?_⟩
          simp only [ek]
          rw [hget (k + 1) (by omega) (by omega)]
          simpa using h

end Sys2Proof.Machine
end

