-- ==== Sys2Proof/Laws/Encoding.lean ====
section
/-! SUPPORT. The field cuts and the packed formats of R71 as numbers, and from that: they undo each
other, and so do the two bytes of a word and the word (R55). -/

namespace Sys2Proof

@[simp] theorem toNat_regNibble (x : Reg) : (regNibble x).toNat = x.val := rfl

/-! ### A packed format as a number (R71) -/

theorem toNat_packNNN (g : Nibble) (a : Addr) :
    (packNNN g a).toNat = 0x1000 * g.toNat + a.toNat := by
  rw [packNNN, BitVec.toNat_append, ← Nat.shiftLeft_add_eq_or_of_lt a.isLt, Nat.shiftLeft_eq]
  omega

theorem toNat_packXKK (g : Nibble) (x : Reg) (kk : Byte) :
    (packXKK g x kk).toNat = 0x1000 * g.toNat + 0x100 * x.val + kk.toNat := by
  rw [packXKK, BitVec.toNat_append, ← Nat.shiftLeft_add_eq_or_of_lt kk.isLt, BitVec.toNat_append,
    ← Nat.shiftLeft_add_eq_or_of_lt (regNibble x).isLt, toNat_regNibble, Nat.shiftLeft_eq,
    Nat.shiftLeft_eq]
  omega

theorem toNat_packXYN (g : Nibble) (x y : Reg) (n : Nibble) :
    (packXYN g x y n).toNat = 0x1000 * g.toNat + 0x100 * x.val + 0x10 * y.val + n.toNat := by
  rw [packXYN, BitVec.toNat_append, ← Nat.shiftLeft_add_eq_or_of_lt n.isLt, BitVec.toNat_append,
    ← Nat.shiftLeft_add_eq_or_of_lt (regNibble y).isLt, BitVec.toNat_append,
    ← Nat.shiftLeft_add_eq_or_of_lt (regNibble x).isLt, toNat_regNibble, toNat_regNibble,
    Nat.shiftLeft_eq, Nat.shiftLeft_eq, Nat.shiftLeft_eq]
  omega

theorem toNat_opcodeOf (b0 b1 : Byte) : (opcodeOf b0 b1).toNat = 0x100 * b0.toNat + b1.toNat := by
  rw [opcodeOf, BitVec.toNat_append, ← Nat.shiftLeft_add_eq_or_of_lt b1.isLt, Nat.shiftLeft_eq]
  omega

/-! ### The cuts as numbers (R8, R71) -/

theorem toNat_opG (op : Word) : (opG op).toNat = op.toNat / 0x1000 := by
  simp only [opG, BitVec.extractLsb'_toNat, Nat.shiftRight_eq_div_pow]; omega

theorem val_opX (op : Word) : (opX op).val = op.toNat / 0x100 % 16 := by
  show (op.extractLsb' 8 4).toNat = _
  simp only [BitVec.extractLsb'_toNat, Nat.shiftRight_eq_div_pow]

theorem val_opY (op : Word) : (opY op).val = op.toNat / 0x10 % 16 := by
  show (op.extractLsb' 4 4).toNat = _
  simp only [BitVec.extractLsb'_toNat, Nat.shiftRight_eq_div_pow]

theorem toNat_opN (op : Word) : (opN op).toNat = op.toNat % 16 := by
  simp only [opN, BitVec.extractLsb'_toNat, Nat.shiftRight_eq_div_pow]; omega

theorem toNat_opKK (op : Word) : (opKK op).toNat = op.toNat % 0x100 := by
  simp only [opKK, BitVec.extractLsb'_toNat, Nat.shiftRight_eq_div_pow]; omega

theorem toNat_opNNN (op : Word) : (opNNN op).toNat = op.toNat % 0x1000 := by
  simp only [opNNN, BitVec.extractLsb'_toNat, Nat.shiftRight_eq_div_pow]; omega

theorem toNat_firstByte (op : Word) : (firstByte op).toNat = op.toNat / 0x100 := by
  simp only [firstByte, BitVec.extractLsb'_toNat, Nat.shiftRight_eq_div_pow]; omega

theorem toNat_secondByte (op : Word) : (secondByte op).toNat = op.toNat % 0x100 := by
  simp only [secondByte, BitVec.extractLsb'_toNat, Nat.shiftRight_eq_div_pow]; omega

/-! ### Cutting a packed word -/

@[simp] theorem opG_packNNN (g : Nibble) (a : Addr) : opG (packNNN g a) = g := by
  apply BitVec.eq_of_toNat_eq
  rw [toNat_opG, toNat_packNNN]; omega

@[simp] theorem opNNN_packNNN (g : Nibble) (a : Addr) : opNNN (packNNN g a) = a := by
  apply BitVec.eq_of_toNat_eq
  rw [toNat_opNNN, toNat_packNNN]; omega

theorem val_opX_packNNN (g : Nibble) (a : Addr) : (opX (packNNN g a)).val = a.toNat / 0x100 := by
  rw [val_opX, toNat_packNNN]; omega

@[simp] theorem opG_packXKK (g : Nibble) (x : Reg) (kk : Byte) : opG (packXKK g x kk) = g := by
  apply BitVec.eq_of_toNat_eq
  rw [toNat_opG, toNat_packXKK]; omega

@[simp] theorem opX_packXKK (g : Nibble) (x : Reg) (kk : Byte) : opX (packXKK g x kk) = x := by
  apply Fin.ext
  rw [val_opX, toNat_packXKK]; omega

@[simp] theorem opKK_packXKK (g : Nibble) (x : Reg) (kk : Byte) : opKK (packXKK g x kk) = kk := by
  apply BitVec.eq_of_toNat_eq
  rw [toNat_opKK, toNat_packXKK]; omega

@[simp] theorem opG_packXYN (g : Nibble) (x y : Reg) (n : Nibble) : opG (packXYN g x y n) = g := by
  apply BitVec.eq_of_toNat_eq
  rw [toNat_opG, toNat_packXYN]; omega

@[simp] theorem opX_packXYN (g : Nibble) (x y : Reg) (n : Nibble) : opX (packXYN g x y n) = x := by
  apply Fin.ext
  rw [val_opX, toNat_packXYN]; omega

@[simp] theorem opY_packXYN (g : Nibble) (x y : Reg) (n : Nibble) : opY (packXYN g x y n) = y := by
  apply Fin.ext
  rw [val_opY, toNat_packXYN]; omega

@[simp] theorem opN_packXYN (g : Nibble) (x y : Reg) (n : Nibble) : opN (packXYN g x y n) = n := by
  apply BitVec.eq_of_toNat_eq
  rw [toNat_opN, toNat_packXYN]; omega

/-! ### Packing the cuts of a word -/

theorem packNNN_cuts (op : Word) : packNNN (opG op) (opNNN op) = op := by
  apply BitVec.eq_of_toNat_eq
  rw [toNat_packNNN, toNat_opG, toNat_opNNN]; omega

theorem packXKK_cuts (op : Word) : packXKK (opG op) (opX op) (opKK op) = op := by
  apply BitVec.eq_of_toNat_eq
  rw [toNat_packXKK, toNat_opG, val_opX, toNat_opKK]; omega

theorem packXYN_cuts (op : Word) : packXYN (opG op) (opX op) (opY op) (opN op) = op := by
  apply BitVec.eq_of_toNat_eq
  rw [toNat_packXYN, toNat_opG, val_opX, val_opY, toNat_opN]; omega

/-! ### Bytes and words (R55) -/

@[simp] theorem opcodeOf_bytes (op : Word) : opcodeOf (firstByte op) (secondByte op) = op := by
  apply BitVec.eq_of_toNat_eq
  rw [toNat_opcodeOf, toNat_firstByte, toNat_secondByte]; omega

@[simp] theorem firstByte_opcodeOf (b0 b1 : Byte) : firstByte (opcodeOf b0 b1) = b0 := by
  apply BitVec.eq_of_toNat_eq
  rw [toNat_firstByte, toNat_opcodeOf]; omega

@[simp] theorem secondByte_opcodeOf (b0 b1 : Byte) : secondByte (opcodeOf b0 b1) = b1 := by
  apply BitVec.eq_of_toNat_eq
  rw [toNat_secondByte, toNat_opcodeOf]; omega

/-! ### The masks of R74: under a mask, a word is its row's pattern when the fixed fields agree -/

/-- Words are equal when their four nibbles are. -/
theorem word_ext {w w' : Word} (hg : opG w = opG w') (hx : opX w = opX w') (hy : opY w = opY w')
    (hn : opN w = opN w') : w = w' := by
  rw [← packXYN_cuts w, ← packXYN_cuts w', hg, hx, hy, hn]

theorem opG_and (w m : Word) : opG (w &&& m) = opG w &&& opG m := by
  simp [opG, BitVec.extractLsb'_and]

theorem opX_and (w m : Word) : regNibble (opX (w &&& m)) = regNibble (opX w) &&& regNibble (opX m) := by
  show (w &&& m).extractLsb' 8 4 = w.extractLsb' 8 4 &&& m.extractLsb' 8 4
  rw [BitVec.extractLsb'_and]

theorem opY_and (w m : Word) : regNibble (opY (w &&& m)) = regNibble (opY w) &&& regNibble (opY m) := by
  show (w &&& m).extractLsb' 4 4 = w.extractLsb' 4 4 &&& m.extractLsb' 4 4
  rw [BitVec.extractLsb'_and]

theorem opN_and (w m : Word) : opN (w &&& m) = opN w &&& opN m := by
  simp [opN, BitVec.extractLsb'_and]

theorem opKK_eq_iff {w w' : Word} : opKK w = opKK w' ↔ opY w = opY w' ∧ opN w = opN w' := by
  have e : ∀ v v' : Word, opKK v = opKK v' ↔ v.toNat % 0x100 = v'.toNat % 0x100 := fun v v' => by
    rw [← toNat_opKK, ← toNat_opKK]; exact BitVec.toNat_inj.symm
  have ey : opY w = opY w' ↔ w.toNat / 0x10 % 16 = w'.toNat / 0x10 % 16 := by
    rw [← val_opY, ← val_opY]; exact Fin.ext_iff
  have en : opN w = opN w' ↔ w.toNat % 16 = w'.toNat % 16 := by
    rw [← toNat_opN, ← toNat_opN]; exact BitVec.toNat_inj.symm
  rw [e, ey, en]; omega

theorem reg_eq_of_nibble {x y : Reg} (h : regNibble x = regNibble y) : x = y :=
  congrArg BitVec.toFin h

theorem opX_and_zero {w m : Word} (h : regNibble (opX m) = 0) : opX (w &&& m) = 0 :=
  reg_eq_of_nibble ((opX_and w m).trans (by rw [h]; exact BitVec.and_zero))

theorem opY_and_zero {w m : Word} (h : regNibble (opY m) = 0) : opY (w &&& m) = 0 :=
  reg_eq_of_nibble ((opY_and w m).trans (by rw [h]; exact BitVec.and_zero))

theorem opY_and_ones {w m : Word} (h : regNibble (opY m) = BitVec.allOnes 4) :
    opY (w &&& m) = opY w :=
  reg_eq_of_nibble ((opY_and w m).trans (by rw [h]; exact BitVec.and_allOnes))

theorem opN_and_zero {w m : Word} (h : opN m = 0) : opN (w &&& m) = 0 :=
  (opN_and w m).trans (by rw [h]; exact BitVec.and_zero)

theorem opN_and_ones {w m : Word} (h : opN m = BitVec.allOnes 4) : opN (w &&& m) = opN w :=
  (opN_and w m).trans (by rw [h]; exact BitVec.and_allOnes)

theorem opG_and_ones {w m : Word} (h : opG m = BitVec.allOnes 4) : opG (w &&& m) = opG w :=
  (opG_and w m).trans (by rw [h]; exact BitVec.and_allOnes)

theorem mask_group (w : Word) (g : Nibble) : w &&& 0xF000 = packXYN g 0 0 0 ↔ opG w = g := by
  have hg : opG (w &&& 0xF000) = opG w := opG_and_ones (by decide)
  refine ⟨fun h => by rw [← hg, h, opG_packXYN], fun h => word_ext ?_ ?_ ?_ ?_⟩
  · rw [hg, opG_packXYN, h]
  · rw [opX_packXYN]; exact opX_and_zero (by decide)
  · rw [opY_packXYN]; exact opY_and_zero (by decide)
  · rw [opN_packXYN]; exact opN_and_zero (by decide)

theorem mask_pair (w : Word) (g n : Nibble) :
    w &&& 0xF00F = packXYN g 0 0 n ↔ opG w = g ∧ opN w = n := by
  have hg : opG (w &&& 0xF00F) = opG w := opG_and_ones (by decide)
  have hn : opN (w &&& 0xF00F) = opN w := opN_and_ones (by decide)
  refine ⟨fun h => ⟨by rw [← hg, h, opG_packXYN], by rw [← hn, h, opN_packXYN]⟩,
    fun h => word_ext ?_ ?_ ?_ ?_⟩
  · rw [hg, opG_packXYN, h.1]
  · rw [opX_packXYN]; exact opX_and_zero (by decide)
  · rw [opY_packXYN]; exact opY_and_zero (by decide)
  · rw [hn, opN_packXYN, h.2]

theorem mask_sub (w : Word) (g : Nibble) (kk : Byte) :
    w &&& 0xF0FF = packXKK g 0 kk ↔ opG w = g ∧ opKK w = kk := by
  have hg : opG (w &&& 0xF0FF) = opG w := opG_and_ones (by decide)
  have hk : opKK (w &&& 0xF0FF) = opKK w :=
    opKK_eq_iff.mpr ⟨opY_and_ones (by decide), opN_and_ones (by decide)⟩
  have hx : opX (w &&& 0xF0FF) = 0 := opX_and_zero (by decide)
  refine ⟨fun h => ⟨by rw [← hg, h, opG_packXKK], by rw [← hk, h, opKK_packXKK]⟩, fun h => ?_⟩
  rw [← packXKK_cuts (w &&& 0xF0FF), hg, hx, hk, h.1, h.2]

end Sys2Proof
end

