-- ==== Sys2Proof/Laws/Exec.lean ====
section
/-! SUPPORT. For each instruction whose meaning has a check or a scan in it, everything it can come to;
and a skip by its condition. Every other arm of `exec` answers one next state by definition. -/

namespace Sys2Proof.Machine

/-- CALL pushes and jumps, or overflows (R103). -/
theorem exec_call_cases (nnn : Addr) (s : State) :
    (∃ h : s.sp.toNat < stackCapacity,
      exec (.call nnn) s = .next ((s.push s.pc h).setPc (addrWord nnn))) ∨
    (32 ≤ s.sp.toNat ∧ exec (.call nnn) s = .next (s.raiseFrom (.call nnn) .stackOverflow)) := by
  by_cases h : s.sp.toNat < stackCapacity
  · exact .inl ⟨h, dif_pos h⟩
  · exact .inr ⟨Nat.le_of_not_lt h, dif_neg h⟩

/-- RET reads the cell SP names, where there is one (R104). -/
theorem exec_ret_cases (s : State) :
    (∃ h : s.sp.toNat < 33,
      exec .ret s = .next (s.popSp.setPc (s.stack[s.sp.toNat] + 2))) ∨
    (33 ≤ s.sp.toNat ∧ exec .ret s = .fault .noStackCell) := by
  by_cases h : s.sp.toNat < 33
  · exact .inl ⟨h, dif_pos h⟩
  · exact .inr ⟨Nat.le_of_not_lt h, dif_neg h⟩

/-- DRW draws, or its sprite reaches past the memory (R166). -/
theorem exec_drw_cases (x y : Reg) (n : Nibble) (s : State) :
    (¬(0 < n.toNat ∧ 4096 ≤ s.base + n.toNat - 1) ∧
      exec (.drw x y n) s = .next ((s.setFb (drawnBy x y n s).1).setV flagReg
        (flagByte (drawnBy x y n s).2)).advance) ∨
    ((0 < n.toNat ∧ 4096 ≤ s.base + n.toNat - 1) ∧
      exec (.drw x y n) s = .next (s.raiseFrom (.drw x y n) .memoryOutOfBounds)) := by
  by_cases h : spriteOutOfBounds s.base n.toNat = true
  · exact .inr ⟨(spriteOutOfBounds_iff _ _).mp h, if_pos h⟩
  · exact .inl ⟨fun h' => h ((spriteOutOfBounds_iff _ _).mpr h'), if_neg h⟩

/-- LD Vx, K takes the key the scan finds, or stays (R182). -/
theorem exec_ldVxK_cases (x : Reg) (s : State) :
    (∃ k, firstPressed s.key.toList 0 = some k ∧
      exec (.ldVxK x) s = .next (s.setV x (BitVec.ofNat 8 k)).advance) ∨
    (firstPressed s.key.toList 0 = none ∧ exec (.ldVxK x) s = .next (s.setPc s.pc)) := by
  cases h : firstPressed s.key.toList 0 with
  | some k => exact .inl ⟨k, rfl, by simp [exec, execLdVxK, h]⟩
  | none => exact .inr ⟨rfl, by simp [exec, execLdVxK, h]⟩

/-- A skip whose test says whether c holds (R94). -/
theorem State.skipIf_of_iff (s : State) (c : Prop) [Decidable c] {b : Bool} (h : b = true ↔ c) :
    s.skipIf b = { s with pc := s.pc + if c then 4 else 2 } := by
  by_cases hc : c
  · simp [State.skipIf, State.setPc, hc, h.mpr hc]
  · have hb : b = false := by simpa [hc] using h
    simp [State.skipIf, State.setPc, hc, hb]

end Sys2Proof.Machine
end

