-- ==== Sys2Proof/Laws/PerInstr.lean ====
section
/-! SUPPORT. Facts about every instruction as syntax, one lemma per constructor. -/

namespace Sys2Proof.Laws

/-- The word of a well-formed instruction belongs to the instruction's row of R74. -/
def RowCovers.Statement (i : Instr) : Prop := i.wf = true → i.row.covers (encode i) = true

/-- A row whose fixed bits agree and that asks nothing of x covers the word. -/
theorem covers_of_fixed {r : OpcodeRow} {w : Word} (h : w &&& r.mask = r.pat)
    (hx : r.xNonzero = false) : r.covers w = true := by
  simp [OpcodeRow.covers, h, hx]

theorem RowCovers.cls : RowCovers.Statement .cls := fun _ => by decide

theorem RowCovers.ret : RowCovers.Statement .ret := fun _ => by decide

theorem RowCovers.sys (nnn : Addr) : RowCovers.Statement (.sys nnn) := fun h => by
  have hn : 0x100 ≤ nnn.toNat := of_decide_eq_true h
  have hx : opX (packNNN 0 nnn) ≠ 0 := fun e => by
    have := val_opX_packNNN 0 nnn
    rw [e] at this
    have : (0 : Reg).val = 0 := rfl
    omega
  have hm : packNNN 0 nnn &&& 0xF000 = 0 := (mask_group _ 0).mpr (opG_packNNN 0 nnn)
  simpa [OpcodeRow.covers, Instr.row, encode] using And.intro hm hx

theorem RowCovers.jp (nnn : Addr) : RowCovers.Statement (.jp nnn) :=
  fun _ => covers_of_fixed ((mask_group _ 0x1#4).mpr (opG_packNNN _ _)) rfl

theorem RowCovers.call (nnn : Addr) : RowCovers.Statement (.call nnn) :=
  fun _ => covers_of_fixed ((mask_group _ 0x2#4).mpr (opG_packNNN _ _)) rfl

theorem RowCovers.seImm (x : Reg) (kk : Byte) : RowCovers.Statement (.seImm x kk) :=
  fun _ => covers_of_fixed ((mask_group _ 0x3#4).mpr (opG_packXKK _ _ _)) rfl

theorem RowCovers.sneImm (x : Reg) (kk : Byte) : RowCovers.Statement (.sneImm x kk) :=
  fun _ => covers_of_fixed ((mask_group _ 0x4#4).mpr (opG_packXKK _ _ _)) rfl

theorem RowCovers.seReg (x y : Reg) : RowCovers.Statement (.seReg x y) :=
  fun _ => covers_of_fixed ((mask_pair _ 0x5#4 0x0#4).mpr ⟨opG_packXYN _ _ _ _, opN_packXYN _ _ _ _⟩) rfl

theorem RowCovers.ldImm (x : Reg) (kk : Byte) : RowCovers.Statement (.ldImm x kk) :=
  fun _ => covers_of_fixed ((mask_group _ 0x6#4).mpr (opG_packXKK _ _ _)) rfl

theorem RowCovers.addImm (x : Reg) (kk : Byte) : RowCovers.Statement (.addImm x kk) :=
  fun _ => covers_of_fixed ((mask_group _ 0x7#4).mpr (opG_packXKK _ _ _)) rfl

theorem RowCovers.ldReg (x y : Reg) : RowCovers.Statement (.ldReg x y) :=
  fun _ => covers_of_fixed ((mask_pair _ 0x8#4 0x0#4).mpr ⟨opG_packXYN _ _ _ _, opN_packXYN _ _ _ _⟩) rfl

theorem RowCovers.orReg (x y : Reg) : RowCovers.Statement (.orReg x y) :=
  fun _ => covers_of_fixed ((mask_pair _ 0x8#4 0x1#4).mpr ⟨opG_packXYN _ _ _ _, opN_packXYN _ _ _ _⟩) rfl

theorem RowCovers.andReg (x y : Reg) : RowCovers.Statement (.andReg x y) :=
  fun _ => covers_of_fixed ((mask_pair _ 0x8#4 0x2#4).mpr ⟨opG_packXYN _ _ _ _, opN_packXYN _ _ _ _⟩) rfl

theorem RowCovers.xorReg (x y : Reg) : RowCovers.Statement (.xorReg x y) :=
  fun _ => covers_of_fixed ((mask_pair _ 0x8#4 0x3#4).mpr ⟨opG_packXYN _ _ _ _, opN_packXYN _ _ _ _⟩) rfl

theorem RowCovers.addReg (x y : Reg) : RowCovers.Statement (.addReg x y) :=
  fun _ => covers_of_fixed ((mask_pair _ 0x8#4 0x4#4).mpr ⟨opG_packXYN _ _ _ _, opN_packXYN _ _ _ _⟩) rfl

theorem RowCovers.subReg (x y : Reg) : RowCovers.Statement (.subReg x y) :=
  fun _ => covers_of_fixed ((mask_pair _ 0x8#4 0x5#4).mpr ⟨opG_packXYN _ _ _ _, opN_packXYN _ _ _ _⟩) rfl

theorem RowCovers.shr (x y : Reg) : RowCovers.Statement (.shr x y) :=
  fun _ => covers_of_fixed ((mask_pair _ 0x8#4 0x6#4).mpr ⟨opG_packXYN _ _ _ _, opN_packXYN _ _ _ _⟩) rfl

theorem RowCovers.subn (x y : Reg) : RowCovers.Statement (.subn x y) :=
  fun _ => covers_of_fixed ((mask_pair _ 0x8#4 0x7#4).mpr ⟨opG_packXYN _ _ _ _, opN_packXYN _ _ _ _⟩) rfl

theorem RowCovers.shl (x y : Reg) : RowCovers.Statement (.shl x y) :=
  fun _ => covers_of_fixed ((mask_pair _ 0x8#4 0xE#4).mpr ⟨opG_packXYN _ _ _ _, opN_packXYN _ _ _ _⟩) rfl

theorem RowCovers.sneReg (x y : Reg) : RowCovers.Statement (.sneReg x y) :=
  fun _ => covers_of_fixed ((mask_pair _ 0x9#4 0x0#4).mpr ⟨opG_packXYN _ _ _ _, opN_packXYN _ _ _ _⟩) rfl

theorem RowCovers.ldI (nnn : Addr) : RowCovers.Statement (.ldI nnn) :=
  fun _ => covers_of_fixed ((mask_group _ 0xA#4).mpr (opG_packNNN _ _)) rfl

theorem RowCovers.jpV0 (nnn : Addr) : RowCovers.Statement (.jpV0 nnn) :=
  fun _ => covers_of_fixed ((mask_group _ 0xB#4).mpr (opG_packNNN _ _)) rfl

theorem RowCovers.rnd (x : Reg) (kk : Byte) : RowCovers.Statement (.rnd x kk) :=
  fun _ => covers_of_fixed ((mask_group _ 0xC#4).mpr (opG_packXKK _ _ _)) rfl

theorem RowCovers.drw (x y : Reg) (n : Nibble) : RowCovers.Statement (.drw x y n) :=
  fun _ => covers_of_fixed ((mask_group _ 0xD#4).mpr (opG_packXYN _ _ _ _)) rfl

theorem RowCovers.skp (x : Reg) : RowCovers.Statement (.skp x) :=
  fun _ => covers_of_fixed ((mask_sub _ 0xE#4 0x9E#8).mpr ⟨opG_packXKK _ _ _, opKK_packXKK _ _ _⟩) rfl

theorem RowCovers.sknp (x : Reg) : RowCovers.Statement (.sknp x) :=
  fun _ => covers_of_fixed ((mask_sub _ 0xE#4 0xA1#8).mpr ⟨opG_packXKK _ _ _, opKK_packXKK _ _ _⟩) rfl

theorem RowCovers.ldVxDt (x : Reg) : RowCovers.Statement (.ldVxDt x) :=
  fun _ => covers_of_fixed ((mask_sub _ 0xF#4 0x07#8).mpr ⟨opG_packXKK _ _ _, opKK_packXKK _ _ _⟩) rfl

theorem RowCovers.ldVxK (x : Reg) : RowCovers.Statement (.ldVxK x) :=
  fun _ => covers_of_fixed ((mask_sub _ 0xF#4 0x0A#8).mpr ⟨opG_packXKK _ _ _, opKK_packXKK _ _ _⟩) rfl

theorem RowCovers.ldDtVx (x : Reg) : RowCovers.Statement (.ldDtVx x) :=
  fun _ => covers_of_fixed ((mask_sub _ 0xF#4 0x15#8).mpr ⟨opG_packXKK _ _ _, opKK_packXKK _ _ _⟩) rfl

theorem RowCovers.ldStVx (x : Reg) : RowCovers.Statement (.ldStVx x) :=
  fun _ => covers_of_fixed ((mask_sub _ 0xF#4 0x18#8).mpr ⟨opG_packXKK _ _ _, opKK_packXKK _ _ _⟩) rfl

theorem RowCovers.addI (x : Reg) : RowCovers.Statement (.addI x) :=
  fun _ => covers_of_fixed ((mask_sub _ 0xF#4 0x1E#8).mpr ⟨opG_packXKK _ _ _, opKK_packXKK _ _ _⟩) rfl

theorem RowCovers.ldF (x : Reg) : RowCovers.Statement (.ldF x) :=
  fun _ => covers_of_fixed ((mask_sub _ 0xF#4 0x29#8).mpr ⟨opG_packXKK _ _ _, opKK_packXKK _ _ _⟩) rfl

theorem RowCovers.ldB (x : Reg) : RowCovers.Statement (.ldB x) :=
  fun _ => covers_of_fixed ((mask_sub _ 0xF#4 0x33#8).mpr ⟨opG_packXKK _ _ _, opKK_packXKK _ _ _⟩) rfl

theorem RowCovers.storeRegs (x : Reg) : RowCovers.Statement (.storeRegs x) :=
  fun _ => covers_of_fixed ((mask_sub _ 0xF#4 0x55#8).mpr ⟨opG_packXKK _ _ _, opKK_packXKK _ _ _⟩) rfl

theorem RowCovers.loadRegs (x : Reg) : RowCovers.Statement (.loadRegs x) :=
  fun _ => covers_of_fixed ((mask_sub _ 0xF#4 0x65#8).mpr ⟨opG_packXKK _ _ _, opKK_packXKK _ _ _⟩) rfl

end Sys2Proof.Laws
end

