-- ==== Sys2Proof/Laws/Step.lean ====
section
/-! SUPPORT. What a step can do, said once: its cases, and those of the parts it calls. -/

namespace Sys2Proof.Machine

theorem State.fetch_some {s : State} (h : s.pc.toNat ≤ 4094) :
    s.fetch = some (s.mem.read s.pc.toNat, s.mem.read (s.pc.toNat + 1)) :=
  if_neg (by simp only [memSize]; omega)

theorem State.fetch_none {s : State} (h : 4094 < s.pc.toNat) : s.fetch = none :=
  if_pos (by simp only [memSize]; omega)

/-- A valid word at pc: executeOne is the instruction's meaning (R93). -/
theorem executeOne_of_fetches {s : State} {i : Instr} (h : s.Fetches i) :
    executeOne s = exec i s := by
  unfold executeOne
  rw [State.fetch_some h.1]
  simp only [h.2]

/-- What one execution can come to, when it answers a next state (R90, R208). -/
theorem executeOne_cases {s t : State} (h : executeOne s = .next t) :
    (4094 < s.pc.toNat ∧ t = s.raise .programCounterOutOfBounds none) ∨
    (s.pc.toNat ≤ 4094 ∧
      (∃ e, decodeWord (opcodeOf (s.mem.read s.pc.toNat) (s.mem.read (s.pc.toNat + 1))) = .error e) ∧
      t = s.raise .invalidInstruction
        (some (s.mem.read s.pc.toNat, s.mem.read (s.pc.toNat + 1)))) ∨
    ∃ i, s.Fetches i ∧ exec i s = .next t := by
  rcases Nat.lt_or_ge 4094 s.pc.toNat with hp | hp
  · unfold executeOne at h
    rw [State.fetch_none hp] at h
    exact .inl ⟨hp, by simpa using h.symm⟩
  · cases hd : decodeWord (opcodeOf (s.mem.read s.pc.toNat) (s.mem.read (s.pc.toNat + 1))) with
    | error e =>
      unfold executeOne at h
      rw [State.fetch_some hp] at h
      simp only [hd] at h
      exact .inr (.inl ⟨hp, ⟨e, rfl⟩, by simpa using h.symm⟩)
    | ok i =>
      have hf : s.Fetches i := ⟨hp, hd⟩
      exact .inr (.inr ⟨i, hf, (executeOne_of_fetches hf).symm.trans h⟩)

/-- A step that is a tick. -/
theorem step_of_ticks {s : State} {early late : List Key} (h : s.Ticks early late) :
    step s = tick early late s := by
  unfold step
  simp only [h.1, h.2]

/-- What a step can come to, when it answers a next state: the quit is observed, a key-down lands between
ticks, or the block ticks. -/
theorem step_cases {s t : State} (h : step s = .next t) :
    (s.status = .running ∧ s.nextInput = .quit ∧ t = s.stop) ∨
    (s.status = .running ∧ ∃ k, s.nextInput = .keyDown k ∧ t = s.keysLand [k]) ∨
    ∃ early late u, s.Ticks early late ∧ executeOne (s.keysLand early) = .next u ∧
      t = u.endTick late := by
  have hr : s.status = .running := by
    unfold step at h
    split at h <;> first | assumption | simp at h
  cases hi : s.nextInput with
  | quit =>
    unfold step at h
    simp only [hr, hi] at h
    exact .inl ⟨hr, rfl, by simpa using h.symm⟩
  | keyDown k =>
    unfold step at h
    simp only [hr, hi] at h
    exact .inr (.inl ⟨hr, k, rfl, by simpa using h.symm⟩)
  | tick early late =>
    have ht : s.Ticks early late := ⟨hr, hi⟩
    rw [step_of_ticks ht] at h
    unfold tick at h
    split at h
    · next u hu => exact .inr (.inr ⟨early, late, u, ht, hu, by simpa using h.symm⟩)
    · simp at h
    · simp at h

/-- Key-downs keep the invariant: the flags they write are 1. -/
theorem State.Inv.pressKeys {s : State} (h : s.Inv) (ks : List Key) : (s.pressKeys ks).Inv where
  memCanonical := by simpa using h.memCanonical
  spBound := by simpa using h.spBound
  stackZero := by simpa using h.stackZero
  stackBound := by simpa using h.stackBound
  pcBound := by simpa using h.pcBound
  keyFlags := fun k => by
    rw [State.getElem_pressKeys]
    split
    · exact .inr rfl
    · exact h.keyFlags k

/-- So does landing the key-downs of a schedule entry. -/
theorem State.Inv.keysLand {s : State} (h : s.Inv) (ks : List Key) : (s.keysLand ks).Inv :=
  State.Inv.pressKeys (s := s.setInputs s.inputs.tail)
    ⟨h.memCanonical, h.spBound, h.stackZero, h.stackBound, h.pcBound, h.keyFlags⟩ ks

/-- A tick whose execution answers a next state (R95). -/
theorem step_eq_endTick {s u : State} {early late : List Key} (h : s.Ticks early late)
    (hu : executeOne (s.keysLand early) = .next u) : step s = .next (u.endTick late) := by
  rw [step_of_ticks h]
  unfold tick
  rw [hu]

/-- The instruction at pc is the one at pc after the early key-downs: they touch neither. -/
theorem State.fetches_keysLand {s : State} {i : Instr} (ks : List Key) :
    (s.keysLand ks).Fetches i ↔ s.Fetches i := by
  simp [State.Fetches]

end Sys2Proof.Machine
end

