-- ==== Sys2Proof/Tests/Slice0.lean ====
section
/-! SUPPORT. Tests, and a witness for each statement that has hypotheses. Expected results are those of
95_test_vectors.md, whose vector is named, or are worked out by hand from the rule named. -/

namespace Sys2Proof.Tests

open Sys2Proof Sys2Proof.Machine Sys2Proof.Claims

/-! ### Helpers -/

/-- The next state, if the outcome is one. -/
def next? : Result → Option State
  | .next t => some t
  | _ => none

/-- What one step makes of a state with this word placed where it fetches. -/
def run (w : Nat) (s : State) : Option State := next? (step (s.withFetchWord 16 w))

/-- The state after reset with registers written. -/
def regs (l : List (Reg × Byte)) : State := l.foldl (fun s p => s.setV p.1 p.2) State.reset

/-- V[x], VF and pc. -/
def vfp (x : Reg) (t : State) : Byte × Byte × Word := (t.getV x, t.getV 15, t.pc)

/-- Keys down. -/
def keys (l : List Key) (s : State) : State := s.pressKeys l

/-- The record of a halted block. -/
def halt (t : State) : Option ErrRecord := t.errorOutput

/-! ### WellFormed: each check refuses an ill-formed term -/

theorem test_wf_sys_below_0x100 : (Instr.sys 0x0FF).wf = false := by decide
theorem test_wf_sys_0x100 : (Instr.sys 0x100).wf = true := by decide

/-! ### Decoding: a word of every constructor, written out from the patterns of R74 -/

theorem test_decode_control_flow :
    decodeWord 0x00EE = .ok .ret ∧ decodeWord 0x0345 = .ok (.sys 0x345) ∧
    decodeWord 0x1ABC = .ok (.jp 0xABC) ∧ decodeWord 0x2210 = .ok (.call 0x210) ∧
    decodeWord 0x3342 = .ok (.seImm 3 0x42) ∧ decodeWord 0x4205 = .ok (.sneImm 2 0x05) ∧
    decodeWord 0x5340 = .ok (.seReg 3 4) ∧ decodeWord 0x9120 = .ok (.sneReg 1 2) ∧
    decodeWord 0xB3F0 = .ok (.jpV0 0x3F0) := by decide

theorem test_decode_alu :
    decodeWord 0x6A5C = .ok (.ldImm 10 0x5C) ∧ decodeWord 0x71FE = .ok (.addImm 1 0xFE) ∧
    decodeWord 0x8120 = .ok (.ldReg 1 2) ∧ decodeWord 0x8121 = .ok (.orReg 1 2) ∧
    decodeWord 0x8122 = .ok (.andReg 1 2) ∧ decodeWord 0x8123 = .ok (.xorReg 1 2) ∧
    decodeWord 0x8124 = .ok (.addReg 1 2) ∧ decodeWord 0x8125 = .ok (.subReg 1 2) ∧
    decodeWord 0x8126 = .ok (.shr 1 2) ∧ decodeWord 0x8127 = .ok (.subn 1 2) ∧
    decodeWord 0x812E = .ok (.shl 1 2) ∧ decodeWord 0xC30F = .ok (.rnd 3 0x0F) := by decide

theorem test_decode_index_memory :
    decodeWord 0xA123 = .ok (.ldI 0x123) ∧ decodeWord 0xF21E = .ok (.addI 2) ∧
    decodeWord 0xF129 = .ok (.ldF 1) ∧ decodeWord 0xFA33 = .ok (.ldB 10) ∧
    decodeWord 0xF755 = .ok (.storeRegs 7) ∧ decodeWord 0xF265 = .ok (.loadRegs 2) := by decide

theorem test_decode_display_keypad_timers :
    decodeWord 0x00E0 = .ok .cls ∧ decodeWord 0xD12F = .ok (.drw 1 2 0xF) ∧
    decodeWord 0xE19E = .ok (.skp 1) ∧ decodeWord 0xE1A1 = .ok (.sknp 1) ∧
    decodeWord 0xF107 = .ok (.ldVxDt 1) ∧ decodeWord 0xF20A = .ok (.ldVxK 2) ∧
    decodeWord 0xF315 = .ok (.ldDtVx 3) ∧ decodeWord 0xF418 = .ok (.ldStVx 4) := by decide

/-- V-DEC-1 to V-DEC-3 and V-DEC-6 to V-DEC-10. -/
theorem test_decode_rejects :
    [0x0000, 0x00FF, 0x00E1].map decodeWord = List.replicate 3 (.error .group0) ∧
    [0x5341, 0x9121].map decodeWord = List.replicate 2 (.error .pairNibble) ∧
    [0x8128, 0x8129, 0x812A, 0x812B, 0x812C, 0x812D, 0x812F].map decodeWord =
      List.replicate 7 (.error .group8) ∧
    [0xE19F, 0xE1A0, 0xE000].map decodeWord = List.replicate 3 (.error .groupE) ∧
    [0xF000, 0xF108, 0xF130, 0xF175, 0xF1FF].map decodeWord = List.replicate 5 (.error .groupF) := by
  decide

/-- R70: two bytes make an instruction, whatever follows is left over; one byte makes none. -/
theorem test_decode_bytes :
    decodeBytes [0x12, 0x00, 0xFF] = .ok (.jp 0x200, [0xFF]) ∧
    decodeBytes [0x12] = .error .tooShort := by decide

theorem test_decode_table_word :
    decodeTableWord 16 0xD12F = some (.drw 1 2 0xF) ∧ decodeTableWord 16 0x0000 = none := by decide

/-! ### Fetch and the tick -/

/-- V-DEC-1: no program is loaded in the state after reset, so its first word is 0000. -/
theorem test_reset_halts_on_the_empty_rom : (next? (step State.reset)).map halt =
    some (some ⟨.invalidInstruction, 0x200, some (0, 0)⟩) := by decide

/-- V-FET-1. -/
theorem test_fetch_at_the_last_word : (run 0x1200 (State.reset.setPc 0xFFE)).map (·.pc) = some 0x200 := by
  decide

/-- V-FET-2. -/
theorem test_fetch_beyond_memory : (next? (step (State.reset.setPc 0xFFF))).map halt =
    some (some ⟨.programCounterOutOfBounds, 0xFFF, none⟩) := by decide

/-- V-FET-3, V-FET-4. -/
theorem test_fetch_odd_pc : (run 0x602A (State.reset.setPc 0x201)).map (vfp 0) =
    some (0x2A, 0, 0x203) := by decide

/-- V-TICK-1. -/
theorem test_tick_end : (run 0x6000 (keys [2] (State.reset.setDt 3))).map
    (fun t => (t.dt, t.st, t.key)) = some (2, 0, Vector.replicate 16 0) := by decide

/-- V-TICK-2. -/
theorem test_tick_fatal : (run 0x0000 (keys [2] (State.reset.setDt 3))).map
    (fun t => (t.dt, t.key[2], halt t)) =
    some (3, 1, some ⟨.invalidInstruction, 0x200, some (0, 0)⟩) := by decide

/-- V-TICK-3: the quit waits for the next tick's start. -/
theorem test_tick_quit :
    (next? (step (State.reset.setInputs [.quit]))).map (·.status) = some .stopped := by decide

/-- P5, tick 6: a key-down before the tick is seen by it. -/
theorem test_tick_key_down : (run 0xF20A (State.reset.setInputs [.tick [0xB] []])).map
    (fun t => (t.getV 2, t.pc, t.key[0xB])) = some (0xB, 0x202, 0) := by decide

/-- R98, R213: a key-down between ticks is a step of its own; the block is Running and the sink sees it. -/
theorem test_key_down_between_ticks :
    (next? (step (State.reset.setInputs [.keyDown 0xB, .quit]))).map
      (fun t => (t.status, t.latchedKeys[0xB], t.pc, t.inputs)) =
    some (.running, 1, 0x200, [.quit]) := by decide

/-- R96, R98: a key-down after the failing instruction lands, and no clear follows. -/
theorem test_late_key_down_on_a_fatal_tick :
    (run 0x0000 (State.reset.setInputs [.tick [] [3]])).map (·.key[3]) = some 1 ∧
    (run 0x6000 (State.reset.setInputs [.tick [] [3]])).map (·.key[3]) = some 0 := by decide

/-- V-EXC-2. -/
theorem test_overflow_after_decode : (run 0x2FFF (State.reset.setSp 32)).map halt =
    some (some ⟨.stackOverflow, 0x200, some (0x2F, 0xFF)⟩) := by decide

/-! ### Control flow -/

/-- V-DEC-4. -/
theorem test_sys : (run 0x0100 State.reset).map (·.pc) = some 0x100 := by decide
/-- V-CF-1. -/
theorem test_jp : (run 0x1ABC State.reset).map (·.pc) = some 0xABC := by decide
/-- V-CF-6. -/
theorem test_call : (run 0x2400 ((State.reset.setPc 0x256).setSp 3)).map
    (fun t => (t.sp, t.stack[4], t.pc)) = some (4, 0x256, 0x400) := by decide
/-- V-CF-7. -/
theorem test_call_overflow : (run 0x2400 ((State.reset.setPc 0x256).setSp 32)).map
    (fun t => (halt t, t.sp, t.pc)) =
    some (some ⟨.stackOverflow, 0x256, some (0x24, 0x00)⟩, 32, 0x256) := by decide
/-- V-CF-8. -/
theorem test_ret : (run 0x00EE ((State.reset.setStack
      ((Vector.replicate 33 0).set 1 0x204)).setSp 1)).map
    (fun t => (t.pc, t.sp, t.stack[1])) = some (0x206, 0, 0x204) := by decide
/-- V-CF-9. -/
theorem test_ret_empty_stack : (run 0x00EE State.reset).map (fun t => (t.pc, t.sp)) =
    some (2, 0) := by decide
/-- V-CF-2, and V-CF-13 at the end of memory. -/
theorem test_se_imm : (run 0x3342 (regs [(3, 0x42)])).map (·.pc) = some 0x204 ∧
    (run 0x3342 (regs [(3, 0x41)])).map (·.pc) = some 0x202 ∧
    (run 0x3342 ((regs [(3, 0x42)]).setPc 0xFFE)).map (·.pc) = some 0x1002 := by decide
/-- V-CF-3. -/
theorem test_sne_imm : (run 0x4342 (regs [(3, 0x42)])).map (·.pc) = some 0x202 ∧
    (run 0x4342 (regs [(3, 0x41)])).map (·.pc) = some 0x204 := by decide
/-- V-CF-4. -/
theorem test_se_reg : (run 0x5120 (regs [(1, 9), (2, 9)])).map (·.pc) = some 0x204 ∧
    (run 0x5120 (regs [(1, 9), (2, 8)])).map (·.pc) = some 0x202 := by decide
/-- V-CF-5. -/
theorem test_sne_reg : (run 0x9120 (regs [(1, 9), (2, 9)])).map (·.pc) = some 0x202 ∧
    (run 0x9120 (regs [(1, 9), (2, 8)])).map (·.pc) = some 0x204 := by decide
/-- V-CF-11, V-CF-12. -/
theorem test_jp_v0 : (run 0xB300 (regs [(0, 0x10)])).map (·.pc) = some 0x310 ∧
    (run 0xBFFF (regs [(0, 0xFF)])).map (·.pc) = some 0x10FE := by decide

/-! ### Registers and ALU: V[x], VF, pc -/

/-- V-ALU-1. -/
theorem test_ld_imm : (run 0x6A5C State.reset).map (vfp 10) = some (0x5C, 0, 0x202) := by decide
/-- V-ALU-2, V-ALU-3. -/
theorem test_add_imm : (run 0x7101 (regs [(1, 0xFF), (15, 7)])).map (vfp 1) = some (0, 7, 0x202) ∧
    (run 0x7F01 (regs [(15, 3)])).map (vfp 15) = some (4, 4, 0x202) := by decide
/-- V-ALU-4. -/
theorem test_ld_reg : (run 0x8120 (regs [(2, 0x33)])).map (vfp 1) = some (0x33, 0, 0x202) := by decide
/-- V-ALU-5. -/
theorem test_or : (run 0x8121 (regs [(1, 0xF0), (2, 0x0F), (15, 7)])).map (vfp 1) =
    some (0xFF, 7, 0x202) := by decide
/-- V-ALU-5. -/
theorem test_and : (run 0x8122 (regs [(1, 0xF0), (2, 0x0F), (15, 7)])).map (vfp 1) =
    some (0x00, 7, 0x202) := by decide
/-- V-ALU-6. -/
theorem test_xor : (run 0x8113 (regs [(1, 0x5A), (15, 7)])).map (vfp 1) =
    some (0x00, 7, 0x202) := by decide
/-- L1-1. -/
theorem test_add_reg : (run 0x8124 (regs [(1, 0xFF), (2, 0x01)])).map (vfp 1) =
      some (0x00, 1, 0x202) ∧
    (run 0x8124 (regs [(1, 0x7F), (2, 0x80)])).map (vfp 1) = some (0xFF, 0, 0x202) := by decide
/-- V-ALU-16: the flag is written last. -/
theorem test_add_reg_vf : (run 0x8F14 (regs [(15, 0xFF), (1, 1)])).map (·.getV 15) = some 1 := by decide
/-- L1-2. -/
theorem test_sub : (run 0x8125 (regs [(1, 3), (2, 5)])).map (vfp 1) = some (0xFE, 0, 0x202) ∧
    (run 0x8125 (regs [(1, 7), (2, 7)])).map (vfp 1) = some (0x00, 0, 0x202) := by decide
/-- V-ALU-17: the old VF is the operand. -/
theorem test_sub_vf : (run 0x81F5 (regs [(15, 5), (1, 3)])).map (vfp 1) =
    some (0xFE, 0, 0x202) := by decide
/-- V-ALU-9, V-ALU-10. -/
theorem test_subn : (run 0x8127 (regs [(1, 0x10), (2, 0x20)])).map (vfp 1) =
      some (0x10, 1, 0x202) ∧
    (run 0x8127 (regs [(1, 0x20), (2, 0x20)])).map (vfp 1) = some (0x00, 0, 0x202) := by decide
/-- V-ALU-11, V-ALU-12. -/
theorem test_shr : (run 0x8106 (regs [(1, 1)])).map (vfp 1) = some (0x00, 1, 0x202) ∧
    (run 0x8126 (regs [(1, 0xFE), (2, 1)])).map (vfp 1) = some (0x7F, 0, 0x202) := by decide
/-- V-ALU-18: the flag is written last. -/
theorem test_shr_vf : (run 0x8F06 (regs [(15, 3)])).map (·.getV 15) = some 1 := by decide
/-- V-ALU-13 to V-ALU-15: bit 3, not bit 7. -/
theorem test_shl : (run 0x810E (regs [(1, 0x80)])).map (vfp 1) = some (0x00, 0, 0x202) ∧
    (run 0x810E (regs [(1, 0x08)])).map (vfp 1) = some (0x10, 1, 0x202) ∧
    (run 0x810E (regs [(1, 0xFF)])).map (vfp 1) = some (0xFE, 1, 0x202) := by decide
/-- R133: one draw, and VF is data only. -/
theorem test_rnd : (run 0xC30F (regs [(15, 7)])).map (fun t => (t.draws, t.getV 15, t.pc)) =
    some (1, 7, 0x202) := by decide

/-! ### Index and memory -/

/-- V-IDX-1. -/
theorem test_ld_i : (run 0xAFFF State.reset).map (·.i) = some 0xFFF := by decide
/-- V-IDX-2, V-IDX-3. -/
theorem test_add_i : (run 0xF21E ((regs [(2, 1)]).setI 0xFFF)).map (fun t => (t.i, t.getV 15)) =
      some (0x1000, 0) ∧
    (run 0xF21E ((regs [(2, 1)]).setI 0xFFFF)).map (·.i) = some 0 := by decide
/-- V-IDX-4, V-IDX-5. -/
theorem test_ld_f : (run 0xF129 (regs [(1, 0x0A)])).map (·.i) = some 0x032 ∧
    (run 0xF129 (regs [(1, 0xFF)])).map (·.i) = some 0x4FB := by decide
/-- V-IDX-6. -/
theorem test_ld_b : (run 0xF133 ((regs [(1, 123)]).setI 0x300)).map
    (fun t => (t.mem.readBytes 0x300 4, t.i, t.pc)) = some ([1, 2, 3, 0], 0x300, 0x202) := by decide
/-- L1-9: the third digit is dropped. -/
theorem test_ld_b_end_of_memory : (run 0xF333 ((regs [(3, 255)]).setI 0xFFE)).map
    (fun t => (t.mem, t.pc)) =
    some ([(0x200, 0xF3), (0x201, 0x33), (0xFFE, 2), (0xFFF, 5)], 0x202) := by decide
/-- V-IDX-11: eight registers fit. -/
theorem test_store_regs : (run 0xF755 ((regs [(0, 0x10), (7, 0x17), (8, 0x18)]).setI 0xFF8)).map
    (fun t => (t.mem, t.i)) =
    some ([(0x200, 0xF7), (0x201, 0x55), (0xFF8, 0x10), (0xFFF, 0x17)], 0xFF8) := by decide
/-- V-IDX-10: all sixteen, x ignored. -/
theorem test_store_regs_all : (run 0xF055 ((regs [(1, 0x0A), (15, 0x0B)]).setI 0x400)).map
    (fun t => (t.mem.read 0x401, t.mem.read 0x40F, t.mem.read 0x410)) =
    some (0x0A, 0x0B, 0) := by decide
/-- V-IDX-12: all sixteen, x ignored. -/
theorem test_load_regs : (run 0xF065 ((State.reset.setMem
      [(0x500, 0xA0), (0x50F, 0xAF)]).setI 0x500)).map
    (fun t => (t.getV 0, t.getV 15, t.i)) = some (0xA0, 0xAF, 0x500) := by decide
/-- V-IDX-13: the registers beyond keep their values. -/
theorem test_load_regs_end_of_memory : (run 0xF065 (((regs [(3, 9), (4, 9)]).setMem
      [(0xFFC, 1), (0xFFF, 4)]).setI 0xFFC)).map
    (fun t => (t.getV 0, t.getV 3, t.getV 4)) = some (1, 4, 9) := by decide

/-! ### Display -/

/-- V-DRW-1. -/
theorem test_cls : (run 0x00E0 ((regs [(15, 7)]).setFb (Vector.replicate 32 (BitVec.allOnes 64)))).map
    (fun t => (t.fb, t.getV 15, t.pc)) = some (Vector.replicate 32 0, 7, 0x202) := by decide
/-- V-DRW-6: wrap on both axes. -/
theorem test_drw_wraps : (run 0xD012 (((regs [(0, 0x3C), (1, 0x1F)]).setMem
      [(0x20E, 0xFF), (0x20F, 0x81)]).setI 0x20E)).map
    (fun t => (t.fb[31], t.fb[0], t.getV 15)) =
    some (0xF00000000000000F, 0x1000000000000008, 0) := by decide
/-- V-DRW-8: a set pixel is cleared. -/
theorem test_drw_collides : (run 0xD001 (((State.reset.setMem [(0x300, 0xC0)]).setI 0x300).setFb
      ((Vector.replicate 32 0).set 0 0x8000000000000000))).map
    (fun t => (t.fb[0], t.getV 15)) = some (0x4000000000000000, 1) := by decide
/-- L1-11, L1-12, V-DRW-2 to V-DRW-4. -/
theorem test_place : place 0xFF 0 = 0xFF00000000000000 ∧ place 0xFF 56 = 0xFF ∧
    place 0xFF 57 = 0x800000000000007F ∧ place 0x81 60 = 0x1000000000000008 ∧
    place 0xFF 63 = 0xFE00000000000001 ∧ place 0x80 63 = 1 ∧ place 0xA5 8 = 0x00A5000000000000 := by
  decide

/-! ### Keypad and timers -/

/-- V-KT-1, V-KT-2. -/
theorem test_skp : (run 0xE19E (keys [7] (regs [(1, 0x07)]))).map (·.pc) = some 0x204 ∧
    (run 0xE19E (keys [7] (regs [(1, 0x17)]))).map (·.pc) = some 0x204 ∧
    (run 0xE19E (keys [6] (regs [(1, 0x07)]))).map (·.pc) = some 0x202 := by decide
/-- V-KT-3. -/
theorem test_sknp : (run 0xE1A1 (regs [(1, 0x07)])).map (·.pc) = some 0x204 ∧
    (run 0xE1A1 (keys [7] (regs [(1, 0x07)]))).map (·.pc) = some 0x202 := by decide
/-- V-KT-4. -/
theorem test_ld_k : (run 0xF20A ((keys [9, 3] State.reset).setPc 0x206)).map
    (fun t => (t.getV 2, t.pc)) = some (3, 0x208) := by decide
/-- V-KT-5: the wait stays, and the tick still ends. -/
theorem test_ld_k_waits : (run 0xF20A ((State.reset.setPc 0x206).setDt 2)).map
    (fun t => (t.pc, t.dt)) = some (0x206, 1) := by decide
/-- V-KT-7. -/
theorem test_ld_from_dt : (run 0xF107 (State.reset.setDt 4)).map (fun t => (t.getV 1, t.dt)) =
    some (4, 3) := by decide
/-- V-KT-8, V-KT-9. -/
theorem test_ld_dt : (run 0xF015 (regs [(0, 5)])).map (·.dt) = some 4 ∧
    (run 0xF015 (regs [(0, 1)])).map (·.dt) = some 0 := by decide
/-- V-KT-10. -/
theorem test_ld_st : (run 0xF018 (regs [(0, 2)])).map (fun t => (t.st, t.dt)) = some (1, 0) := by decide

/-! ### Witnesses: states and operands that meet the hypotheses of each statement together -/

/-- A state in the middle of a run: a CALL deep, keys down, timers running, a word to run at 0x300 and
one byte stored. -/
def mid (op : Nat) : State :=
  ({ State.reset with
      v := Vector.ofFn fun r => BitVec.ofNat 8 (17 * r.val), i := 0xFFE, pc := 0x300, sp := 1,
      stack := (Vector.replicate 33 0).set 1 0x222, dt := 9, st := 1, mem := [(0x400, 0x81)],
      fb := (Vector.replicate 32 0).set 3 0xFF, key := (Vector.replicate 16 0).set 5 1,
      draws := 4, inputs := [.tick [1] [2], .keyDown 7, .quit] } : State).withFetchWord 16 op

theorem witness_EncodedInstructionDecodesBack :
    (Instr.drw 1 2 15).wf = true ∧ (Instr.sys 0x100).wf = true := by decide

theorem witness_DecodedWordEncodesBack : decodeWord 0xD12F = .ok (.drw 1 2 15) := by decide

theorem witness_WordBelongsToItsRowOnly :
    decodeWord 0x00EE = .ok .ret ∧ decodeWord 0x00EF = .error .group0 := by decide

theorem witness_StepRunsTheDecodedInstruction_error :
    (mid 0xF0FF).Ticks [1] [2] ∧ (mid 0xF0FF).pc.toNat ≤ 4094 ∧
    decodeWord (opcodeAt (mid 0xF0FF)) = .error .groupF := ⟨⟨by decide, by decide⟩, by decide, by decide⟩

theorem witness_StepRunsTheDecodedInstruction_ok :
    ((State.reset.setPc 4094).withFetchWord 16 0x1200).Ticks [] [] ∧
    ((State.reset.setPc 4094).withFetchWord 16 0x1200).pc.toNat ≤ 4094 ∧
    decodeWord (opcodeAt ((State.reset.setPc 4094).withFetchWord 16 0x1200)) = .ok (.jp 0x200) :=
  ⟨⟨by decide, by decide⟩, by decide, by decide⟩

theorem witness_FetchOutOfBoundsHalts :
    (State.reset.setPc 4095).Ticks [] [] ∧ 4094 < (State.reset.setPc 4095).pc.toNat :=
  ⟨⟨by decide, by decide⟩, by decide⟩

theorem witness_EndOfTickClearsKeysAndStepsTimers : (mid 0x6000).Ticks [1] [2] ∧
    ∃ u, executeOne ((mid 0x6000).keysLand [1]) = .next u ∧ u.status = .running :=
  ⟨⟨by decide, by decide⟩, _, rfl, by decide⟩

/-- A tick that ends Running, and a fatal one. -/
theorem witness_LateKeyDownsAreNeverSeen :
    (∃ t, step { mid 0x6000 with inputs := .tick [1] [] :: [.quit] } = .next t ∧
      t.status = .running) ∧
    (∃ t, step { mid 0xF0FF with inputs := .tick [1] [] :: [.quit] } = .next t ∧
      t.status ≠ .running) :=
  ⟨⟨_, rfl, by decide⟩, _, rfl, by decide⟩

/-- A key whose flag is up already, and one whose flag is not. -/
theorem witness_KeyDownBetweenTicksIsLatched : ∀ k ∈ [(5 : Key), 7],
    ((mid 0).setInputs [.keyDown k]).status = .running ∧
    ((mid 0).setInputs [.keyDown k]).nextInput = .keyDown k := by decide

theorem witness_QuitStopsTheBlock :
    (State.reset.setInputs [.quit]).status = .running ∧
    (State.reset.setInputs [.quit]).nextInput = .quit := by decide

theorem witness_OnlyARunningBlockSteps :
    (State.reset.raise .programCounterOutOfBounds none).status =
      .halted ⟨.programCounterOutOfBounds, 0x200, none⟩ ∧
    (State.reset.setStatus .stopped).status = .stopped := by decide

theorem witness_FatalTickIsPrecise : (mid 0xF0FF).Ticks [1] [2] ∧
    ∃ t, step (mid 0xF0FF) = .next t ∧ t.status ≠ .running :=
  ⟨⟨by decide, by decide⟩, _, rfl, by decide⟩

theorem witness_EachErrorHasItsCause_pc : (State.reset.setPc 4095).Ticks [] [] ∧
    ∃ t, step (State.reset.setPc 4095) = .next t ∧
      t.status = .halted ⟨.programCounterOutOfBounds, 4095, none⟩ :=
  ⟨⟨by decide, by decide⟩, _, rfl, by decide⟩

theorem witness_EachErrorHasItsCause_invalid : (mid 0x8128).Ticks [1] [2] ∧
    ∃ t, step (mid 0x8128) = .next t ∧
      t.status = .halted ⟨.invalidInstruction, 0x300, some (0x81, 0x28)⟩ :=
  ⟨⟨by decide, by decide⟩, _, rfl, by decide⟩

theorem witness_EachErrorHasItsCause_stack : ((mid 0x2400).setSp 32).Ticks [1] [2] ∧
    ∃ t, step ((mid 0x2400).setSp 32) = .next t ∧
      t.status = .halted ⟨.stackOverflow, 0x300, some (0x24, 0x00)⟩ :=
  ⟨⟨by decide, by decide⟩, _, rfl, by decide⟩

theorem witness_EachErrorHasItsCause_memory : (mid 0xD013).Ticks [1] [2] ∧
    ∃ t, step (mid 0xD013) = .next t ∧
      t.status = .halted ⟨.memoryOutOfBounds, 0x300, some (0xD0, 0x13)⟩ :=
  ⟨⟨by decide, by decide⟩, _, rfl, by decide⟩

/-- A Running state that meets the invariant and is not the reset state. -/
theorem witness_RunningBlockAlwaysSteps : (mid 0x00EE).Inv ∧ (mid 0x00EE).status = .running :=
  ⟨⟨by decide, by decide, by decide, by decide, by decide, by decide⟩, by decide⟩

theorem witness_EveryStepKeepsTheInvariant : (mid 0x00EE).Inv ∧
    ∃ t, step (mid 0x00EE) = .next t ∧ t.pc = 0x224 :=
  ⟨witness_RunningBlockAlwaysSteps.1, _, rfl, by decide⟩

theorem witness_OnlyDestinationRegistersChange :
    (∃ t, exec (.addReg 1 2) (mid 0) = .next t) ∧ mayWriteReg (.addReg 1 2) 3 = false :=
  ⟨⟨_, rfl⟩, by decide⟩

/-- Each of the three clauses: another instruction, RET, and CALL with a cell it does not push to. -/
theorem witness_OnlyCallAndRetChangeTheStack :
    ((∃ t, exec .cls (mid 0) = .next t) ∧ Instr.cls ≠ .ret ∧ ∀ nnn, Instr.cls ≠ .call nnn) ∧
    ((∃ t, exec .ret (mid 0) = .next t) ∧ ∀ nnn, Instr.ret ≠ .call nnn) ∧
    ((∃ t, exec (.call 0x400) (mid 0) = .next t) ∧ (1 : Fin 33).val ≠ (mid 0).sp.toNat + 1) :=
  ⟨⟨⟨_, rfl⟩, by decide, nofun⟩, ⟨⟨_, rfl⟩, nofun⟩, ⟨_, rfl⟩, by decide⟩

theorem witness_OnlyClsAndDrwChangeTheFramebuffer :
    (∃ t, exec .ret (mid 0) = .next t) ∧ Instr.ret ≠ .cls ∧ ∀ x y n, Instr.ret ≠ .drw x y n :=
  ⟨⟨_, rfl⟩, by decide, nofun⟩

/-- I = 0xFFE: the byte below, and the first address beyond the memory. -/
theorem witness_OnlyTheStoredBytesChange : (∃ t, exec (.ldB 1) (mid 0) = .next t) ∧
    ∀ a ∈ [0xFFD, 0x1000],
      ¬((mid 0).base ≤ a ∧ a < (mid 0).base + storeLength (.ldB 1) ∧ a < 4096) :=
  ⟨⟨_, rfl⟩, by decide⟩

theorem witness_OnlyThreeInstructionsChangeI :
    (∃ t, exec (.storeRegs 1) (mid 0) = .next t) ∧ (∀ nnn, Instr.storeRegs 1 ≠ .ldI nnn) ∧
    (∀ x, Instr.storeRegs 1 ≠ .addI x) ∧ ∀ x, Instr.storeRegs 1 ≠ .ldF x :=
  ⟨⟨_, rfl⟩, nofun, nofun, nofun⟩

theorem witness_TimersKeysAndStatusAreKept :
    (∃ t, exec (.ldVxDt 1) (mid 0) = .next t) ∧ (∀ x, Instr.ldVxDt 1 ≠ .ldDtVx x) ∧
    (∀ x, Instr.ldVxDt 1 ≠ .ldStVx x) ∧ (∀ x kk, Instr.ldVxDt 1 ≠ .rnd x kk) ∧
    (∀ nnn, Instr.ldVxDt 1 ≠ .call nnn) ∧ ∀ x y n, Instr.ldVxDt 1 ≠ .drw x y n :=
  ⟨⟨_, rfl⟩, nofun, nofun, nofun, nofun, nofun⟩

theorem witness_SysIsAJump : 0x100 ≤ (0x100 : Addr).toNat := by decide

theorem witness_CallPushesItsOwnAddress : ((mid 0).setSp 31).sp.toNat < 32 := by decide

theorem witness_CallBeyondCapacityOverflows :
    32 ≤ ((mid 0).setSp 32).sp.toNat ∧ 32 ≤ ((mid 0).setSp 33).sp.toNat := by decide

/-- The last SP with a cell, and the first without. -/
theorem witness_RetReturnsBehindTheCall :
    ((mid 0).setSp 32).sp.toNat ≤ 32 ∧ 32 < ((mid 0).setSp 33).sp.toNat := by decide

/-- Between the CALL and the RET the machine may do anything that leaves the stack alone. -/
theorem witness_RetUndoesCall : ((mid 0).setSp 31).sp.toNat < 32 ∧
    ∃ t, exec (.call 0x400) ((mid 0).setSp 31) = .next t ∧ ∃ u : State, u.sp = t.sp ∧
      u.stack = t.stack ∧ u.pc ≠ t.pc :=
  ⟨by decide, _, rfl, State.setPc _ 0x678, rfl, rfl, by decide⟩

theorem witness_NestedCallsStackTheirAddresses : ((mid 0).setSp 0).sp = 0 ∧
    (List.replicate 32 (0x200 : Addr)).length ≤ 32 := by decide

/-- 5341 and 534F. -/
theorem witness_SkipsOnARegister : (0 < 1 ∧ 1 < 16) ∧ (0 < 15 ∧ 15 < 16) := by decide

theorem witness_RndMasksOneFreshDraw : (0 : Byte) = 0 := rfl

/-- Both ends of each range. -/
theorem witness_GlyphAddressIsFiveTimesVx :
    ((regs []).getV 1).toNat ≤ 0xF ∧ ((regs [(1, 0xF)]).getV 1).toNat ≤ 0xF ∧
    0x10 ≤ ((regs [(1, 0x10)]).getV 1).toNat ∧ ((regs [(1, 0x10)]).getV 1).toNat ≤ 0x19 ∧
    0x10 ≤ ((regs [(1, 0x19)]).getV 1).toNat ∧ ((regs [(1, 0x19)]).getV 1).toNat ≤ 0x19 ∧
    0x1A ≤ ((regs [(1, 0x1A)]).getV 1).toNat ∧ 0x1A ≤ ((regs [(1, 0xFF)]).getV 1).toNat := by decide

/-- I = 0xFFE: the hundreds and the tens are stored, the ones' address is beyond the memory; and I with
all three in range. The clauses are a chain, so they exclude each other. -/
theorem witness_BcdStoresThreeDigits :
    (0xFFE = (mid 0).base ∧ 0xFFF = (mid 0).base + 1 ∧ 4096 ≤ (mid 0).base + 2) ∧
    (¬4096 ≤ 0xFFF ∧ 0xFFF = ((mid 0).setI 0xFFD).base + 2) := by decide

/-- I = 0xFFE: V1 is the last register that fits; 0x1000 and 0xFFD are outside. -/
theorem witness_BlockStoreWritesAllRegisters : (mid 0).base + (1 : Reg).val < 4096 ∧
    ¬(mid 0).base + (2 : Reg).val < 4096 ∧
    ∀ a ∈ [0xFFD, 0x1000], ¬((mid 0).base ≤ a ∧ a < min ((mid 0).base + 16) 4096) := by decide

/-- The last sprite byte at 0xFFF; and no rows, with I beyond the memory. -/
theorem witness_DrwFlipsExactlyTheSpritePixels :
    ((2 : Nibble).toNat = 0 ∨ (mid 0).base + (2 : Nibble).toNat - 1 < 4096) ∧
    ((0 : Nibble).toNat = 0 ∨
      ((mid 0).setI 0xFFFF).base + (0 : Nibble).toNat - 1 < 4096) := by decide

theorem witness_DrwBeyondMemoryHalts : 0 < (3 : Nibble).toNat ∧
    4096 ≤ (mid 0).base + (3 : Nibble).toNat - 1 := by decide

theorem witness_PlacementHasThreeCases : (0 < 64 ∧ 0 < 56) ∧ (55 < 64 ∧ 55 < 56) ∧
    (56 < 64 ∧ 56 = 56) ∧ (57 < 64 ∧ 56 < 57) ∧ (63 < 64 ∧ 56 < 63) := by decide

theorem witness_DrawingTwiceRestores : (0 : Reg) ≠ 15 ∧ (1 : Reg) ≠ 15 ∧
    ((2 : Nibble).toNat = 0 ∨ (mid 0).base + (2 : Nibble).toNat - 1 < 4096) ∧
    ∃ t, exec (.drw 0 1 2) (mid 0) = .next t := ⟨by decide, by decide, by decide, _, rfl⟩

theorem witness_DrawingAfterClsShowsTheSprite :
    ((2 : Nibble).toNat = 0 ∨ (mid 0).base + (2 : Nibble).toNat - 1 < 4096) ∧
    ∃ t, exec .cls (mid 0) = .next t := ⟨by decide, _, rfl⟩

/-- No key down; key 0 down; key 15 alone down. -/
theorem witness_WaitForKeyTakesTheLowest :
    (∀ k : Key, State.reset.key[k.val] = 0) ∧
    ((keys [0, 15] State.reset).key[(0 : Key).val] ≠ 0 ∧
      ∀ j : Key, j < 0 → (keys [0, 15] State.reset).key[j.val] = 0) ∧
    ((keys [15] State.reset).key[(15 : Key).val] ≠ 0 ∧
      ∀ j : Key, j < 15 → (keys [15] State.reset).key[j.val] = 0) := by decide

/-- One state for each of the three instructions. -/
theorem witness_TimerLoadsAndStores :
    ((mid 0xF107).Ticks [1] [2] ∧ (mid 0xF107).Fetches (.ldVxDt 1)) ∧
    ((mid 0xF115).Ticks [1] [2] ∧ (mid 0xF115).Fetches (.ldDtVx 1)) ∧
    ((mid 0xF118).Ticks [1] [2] ∧ (mid 0xF118).Fetches (.ldStVx 1)) :=
  ⟨⟨⟨by decide, by decide⟩, by decide, by decide⟩, ⟨⟨by decide, by decide⟩, by decide, by decide⟩,
    ⟨by decide, by decide⟩, by decide, by decide⟩

/-- The last base, with the two bytes that fit; and a ROM over the font. -/
theorem witness_BootLoadsFontThenRom : (List.replicate 128 (7 : Byte)).length = 128 ∧
    (4094 ≤ 4094 ∧ 4094 + [(0x12 : Byte), 0x00].length ≤ 4096) ∧
    (0x7F ≤ 4094 ∧ 0x7F + [(0x12 : Byte), 0x00].length ≤ 4096) := by simp

/-- Each clause at its boundary: a font of 127 bytes, a base of 4095, one ROM byte too many. -/
theorem witness_BootRefusesABadConfiguration :
    (∀ f, some (List.replicate 127 (7 : Byte)) = some f → f.length ≠ 128) ∧ 4094 < 4095 ∧
    4096 < 4094 + [(0x12 : Byte), 0x00, 0xFF].length :=
  ⟨fun _ h => Option.some.inj h ▸ by simp, by decide, by decide⟩

end Sys2Proof.Tests
end

/-! ## What an instruction may change, what every step keeps, and the state after reset (10_state.md) -/

namespace Sys2Proof.Machine

/-! ### The changes an instruction can make

Each obligation about who writes what, and the invariant, is a case split on `Effect`. -/

/-- The next states instruction `i` can answer in state `s`, sorted by what of the state they change. -/
inductive Effect (s : State) : Instr → State → Prop
  /-- R101, R102, R109 -/
  | jump {i : Instr} (w : Word) (hw : w.toNat ≤ 0x10FE) : Effect s i (s.setPc w)
  /-- R105 to R108, R180, R181 -/
  | skip {i : Instr} (taken : Bool) : Effect s i (s.skipIf taken)
  /-- R182 with no key pressed -/
  | wait {i : Instr} : Effect s i (s.setPc s.pc)
  /-- one register, no flag -/
  | reg {i : Instr} (x : Reg) (b : Byte) (hx : mayWriteReg i x = true := by simp [mayWriteReg]) :
      Effect s i (s.result x b)
  /-- one register and then VF (R121) -/
  | regFlag {i : Instr} (x : Reg) (b f : Byte) (hx : mayWriteReg i x = true := by simp [mayWriteReg])
      (hf : mayWriteReg i flagReg = true := by simp [mayWriteReg]) :
      Effect s i (s.resultFlag x b f)
  | rnd (x : Reg) (kk : Byte) : Effect s (.rnd x kk) (s.afterDraw.result x (s.rndByte &&& kk))
  | ldI (nnn : Addr) : Effect s (.ldI nnn) (s.setI (addrWord nnn)).advance
  | addI (x : Reg) : Effect s (.addI x) (s.setI (s.i + byteWord (s.getV x))).advance
  | ldF (x : Reg) : Effect s (.ldF x) (s.setI (glyphAddr (s.getV x))).advance
  /-- R143, R144: from I upward, as many bytes as `storeLength` says -/
  | store {i : Instr} (bs : List Byte) (hlen : bs.length = storeLength i) :
      Effect s i (s.setMem (s.mem.storeBounded s.base bs)).advance
  | loadRegs (x : Reg) : Effect s (.loadRegs x) (s.setRegs (loadedRegs s)).advance
  | cls : Effect s .cls (s.setFb (Vector.replicate 32 0)).advance
  | drw (x y : Reg) (n : Nibble) : Effect s (.drw x y n)
      ((s.setFb (drawnBy x y n s).1).setV flagReg (flagByte (drawnBy x y n s).2)).advance
  | drwOutOfBounds (x y : Reg) (n : Nibble) :
      Effect s (.drw x y n) (s.raiseFrom (.drw x y n) .memoryOutOfBounds)
  | ldDtVx (x : Reg) : Effect s (.ldDtVx x) (s.setDt (s.getV x)).advance
  | ldStVx (x : Reg) : Effect s (.ldStVx x) (s.setSt (s.getV x)).advance
  | call (nnn : Addr) (h : s.sp.toNat < stackCapacity) :
      Effect s (.call nnn) ((s.push s.pc h).setPc (addrWord nnn))
  | callOverflow (nnn : Addr) : Effect s (.call nnn) (s.raiseFrom (.call nnn) .stackOverflow)
  | ret (h : s.sp.toNat < 33) : Effect s .ret (s.popSp.setPc (s.stack[s.sp.toNat] + 2))

/-- A jump to a 12-bit address stays within the bound of R27. -/
theorem toNat_addrWord_le (nnn : Addr) : (addrWord nnn).toNat ≤ 0x10FE := by
  have := nnn.isLt
  rw [toNat_addrWord]
  omega

/-- The farthest target of JP V0 is 0xFFF + 0xFF, the bound of R27. -/
theorem toNat_addrWord_add_byteWord_le (nnn : Addr) (b : Byte) :
    (addrWord nnn + byteWord b).toNat ≤ 0x10FE := by
  have := nnn.isLt
  have := b.isLt
  rw [BitVec.toNat_add, toNat_addrWord, toNat_byteWord]
  omega

/-- Everything an instruction can come to: one of its effects, or the fault of RET where SP names no
cell. -/
theorem exec_cases (i : Instr) (s : State) :
    (∃ t, exec i s = .next t ∧ Effect s i t) ∨
    (i = .ret ∧ 33 ≤ s.sp.toNat ∧ exec i s = .fault .noStackCell) :=
  match i with
  | .cls => .inl ⟨_, rfl, .cls⟩
  | .ret => (exec_ret_cases s).imp (fun ⟨h, e⟩ => ⟨_, e, .ret h⟩) fun ⟨h, e⟩ => ⟨rfl, h, e⟩
  | .sys nnn => .inl ⟨_, rfl, .jump _ (toNat_addrWord_le nnn)⟩
  | .jp nnn => .inl ⟨_, rfl, .jump _ (toNat_addrWord_le nnn)⟩
  | .call nnn => .inl <| (exec_call_cases nnn s).elim (fun ⟨h, e⟩ => ⟨_, e, .call nnn h⟩)
      fun ⟨_, e⟩ => ⟨_, e, .callOverflow nnn⟩
  | .seImm _ _ => .inl ⟨_, rfl, .skip _⟩
  | .sneImm _ _ => .inl ⟨_, rfl, .skip _⟩
  | .seReg _ _ => .inl ⟨_, rfl, .skip _⟩
  | .ldImm x _ => .inl ⟨_, rfl, .reg x _⟩
  | .addImm x _ => .inl ⟨_, rfl, .reg x _⟩
  | .ldReg x _ => .inl ⟨_, rfl, .reg x _⟩
  | .orReg x _ => .inl ⟨_, rfl, .reg x _⟩
  | .andReg x _ => .inl ⟨_, rfl, .reg x _⟩
  | .xorReg x _ => .inl ⟨_, rfl, .reg x _⟩
  | .addReg x _ => .inl ⟨_, rfl, .regFlag x _ _⟩
  | .subReg x _ => .inl ⟨_, rfl, .regFlag x _ _⟩
  | .shr x _ => .inl ⟨_, rfl, .regFlag x _ _⟩
  | .subn x _ => .inl ⟨_, rfl, .regFlag x _ _⟩
  | .shl x _ => .inl ⟨_, rfl, .regFlag x _ _⟩
  | .sneReg _ _ => .inl ⟨_, rfl, .skip _⟩
  | .ldI nnn => .inl ⟨_, rfl, .ldI nnn⟩
  | .jpV0 nnn => .inl ⟨_, rfl, .jump _ (toNat_addrWord_add_byteWord_le nnn _)⟩
  | .rnd x kk => .inl ⟨_, rfl, .rnd x kk⟩
  | .drw x y n => .inl <| (exec_drw_cases x y n s).elim (fun ⟨_, e⟩ => ⟨_, e, .drw x y n⟩)
      fun ⟨_, e⟩ => ⟨_, e, .drwOutOfBounds x y n⟩
  | .skp _ => .inl ⟨_, rfl, .skip _⟩
  | .sknp _ => .inl ⟨_, rfl, .skip _⟩
  | .ldVxDt x => .inl ⟨_, rfl, .reg x _⟩
  | .ldVxK x => .inl <| (exec_ldVxK_cases x s).elim
      (fun ⟨_, _, e⟩ => ⟨_, e, .reg x _⟩) fun ⟨_, e⟩ => ⟨_, e, .wait⟩
  | .ldDtVx x => .inl ⟨_, rfl, .ldDtVx x⟩
  | .ldStVx x => .inl ⟨_, rfl, .ldStVx x⟩
  | .addI x => .inl ⟨_, rfl, .addI x⟩
  | .ldF x => .inl ⟨_, rfl, .ldF x⟩
  | .ldB _ => .inl ⟨_, rfl, .store _ rfl⟩
  | .storeRegs _ => .inl ⟨_, rfl, .store _ s.v.length_toList⟩
  | .loadRegs x => .inl ⟨_, rfl, .loadRegs x⟩

/-- An answered next state is one of the instruction's effects. -/
theorem exec_effect {i : Instr} {s t : State} (h : exec i s = .next t) : Effect s i t := by
  rcases exec_cases i s with ⟨u, hu, he⟩ | ⟨-, -, hf⟩
  · obtain rfl : u = t := Host.Outcome.next.inj (hu.symm.trans h)
    exact he
  · rw [hf] at h
    cases h

/-! ### Who writes what -/

section
variable {i : Instr} {s t : State}

/-- A register the instruction may not write is none of those its effect writes. -/
theorem exec_getV (h : exec i s = .next t) {r : Reg} (hr : mayWriteReg i r = false) :
    t.getV r = s.getV r := by
  have ne_of_written {x : Reg} (hx : mayWriteReg i x = true) : r ≠ x := by
    rintro rfl
    simp [hr] at hx
  cases exec_effect h with
  | reg x b hx => rw [State.getV_result, if_neg (ne_of_written hx)]
  | regFlag x b f hx hf =>
    rw [State.getV_resultFlag, if_neg (ne_of_written hf), if_neg (ne_of_written hx)]
  | rnd x kk =>
    rw [State.getV_result, if_neg (ne_of_written (by simp [mayWriteReg])), State.afterDraw_getV]
  | drw x y n =>
    rw [State.advance_getV, State.getV_setV_ne _ _ (ne_of_written (by simp [mayWriteReg])),
      State.setFb_getV]
  | loadRegs x => cases hr
  | ret => simp [State.getV]
  | _ => rfl

theorem exec_sp (h : exec i s = .next t) (hret : i ≠ .ret) (hcall : ∀ nnn, i ≠ .call nnn) :
    t.sp = s.sp := by
  cases exec_effect h with
  | ret => exact absurd rfl hret
  | call nnn => exact absurd rfl (hcall nnn)
  | _ => rfl

theorem exec_stack (h : exec i s = .next t) (hcall : ∀ nnn, i ≠ .call nnn) :
    t.stack = s.stack := by
  cases exec_effect h with
  | ret => simp
  | call nnn => exact absurd rfl (hcall nnn)
  | _ => rfl

/-- A CALL writes the cell after the one SP names (R103), so no instruction writes any other. -/
theorem exec_stack_cell (h : exec i s = .next t) (c : Fin 33) (hc : c.val ≠ s.sp.toNat + 1) :
    t.stack[c.val] = s.stack[c.val] := by
  cases exec_effect h with
  | ret => simp
  | call nnn hsp =>
    simp only [State.setPc_stack, State.push_stack]
    exact Vector.getElem_set_ne _ _ hc.symm
  | _ => rfl

theorem exec_fb (h : exec i s = .next t) (hcls : i ≠ .cls) (hdrw : ∀ x y n, i ≠ .drw x y n) :
    t.fb = s.fb := by
  cases exec_effect h with
  | cls => exact absurd rfl hcls
  | drw x y n => exact absurd rfl (hdrw x y n)
  | ret => simp
  | _ => rfl

theorem exec_i (h : exec i s = .next t) (hldI : ∀ nnn, i ≠ .ldI nnn) (haddI : ∀ x, i ≠ .addI x)
    (hldF : ∀ x, i ≠ .ldF x) : t.i = s.i := by
  cases exec_effect h with
  | ldI nnn => exact absurd rfl (hldI nnn)
  | addI x => exact absurd rfl (haddI x)
  | ldF x => exact absurd rfl (hldF x)
  | ret => simp
  | _ => rfl

theorem exec_dt (h : exec i s = .next t) (hi : ∀ x, i ≠ .ldDtVx x) : t.dt = s.dt := by
  cases exec_effect h with
  | ldDtVx x => exact absurd rfl (hi x)
  | ret => simp
  | _ => rfl

theorem exec_st (h : exec i s = .next t) (hi : ∀ x, i ≠ .ldStVx x) : t.st = s.st := by
  cases exec_effect h with
  | ldStVx x => exact absurd rfl (hi x)
  | ret => simp
  | _ => rfl

theorem exec_draws (h : exec i s = .next t) (hi : ∀ x kk, i ≠ .rnd x kk) : t.draws = s.draws := by
  cases exec_effect h with
  | rnd x kk => exact absurd rfl (hi x kk)
  | ret => simp
  | _ => rfl

theorem exec_status (h : exec i s = .next t) (hcall : ∀ nnn, i ≠ .call nnn)
    (hdrw : ∀ x y n, i ≠ .drw x y n) : t.status = s.status := by
  cases exec_effect h with
  | callOverflow nnn => exact absurd rfl (hcall nnn)
  | drwOutOfBounds x y n => exact absurd rfl (hdrw x y n)
  | ret => simp
  | _ => rfl

theorem exec_key (h : exec i s = .next t) : t.key = s.key := by
  cases exec_effect h with
  | ret => simp
  | _ => rfl

theorem exec_inputs (h : exec i s = .next t) : t.inputs = s.inputs := by
  cases exec_effect h with
  | ret => simp
  | _ => rfl

end

/-! ### The invariant -/

section
variable {s t : State}

/-- A change of pc within its bound, and of fields the invariant does not speak of. -/
theorem State.Inv.of_frame (h : s.Inv) (hpc : t.pc.toNat ≤ 0x10FE) (hmem : t.mem = s.mem)
    (hsp : t.sp = s.sp) (hstack : t.stack = s.stack) (hkey : t.key = s.key) : t.Inv where
  memCanonical := hmem ▸ h.memCanonical
  spBound := hsp ▸ h.spBound
  stackZero := by simpa only [hstack] using h.stackZero
  stackBound := by simpa only [hstack] using h.stackBound
  pcBound := hpc
  keyFlags := by simpa only [hkey] using h.keyFlags

theorem State.Inv.setMem (h : s.Inv) {m : Memory} (hm : m.wf = true) : (s.setMem m).Inv :=
  { h with memCanonical := hm }

theorem State.Inv.setSp (h : s.Inv) {b : Byte} (hb : b.toNat ≤ 32) : (s.setSp b).Inv :=
  { h with spBound := hb }

theorem State.Inv.setPc (h : s.Inv) {w : Word} (hw : w.toNat ≤ 0x10FE) : (s.setPc w).Inv :=
  h.of_frame hw rfl rfl rfl rfl

/-- A push writes a cell above cell 0, and SP stays within the array. -/
theorem State.Inv.push (h : s.Inv) {w : Word} (hw : w.toNat ≤ 4094)
    (hsp : s.sp.toNat < stackCapacity) : (s.push w hsp).Inv where
  memCanonical := h.memCanonical
  spBound := by
    rw [State.push_sp, BitVec.toNat_add]
    have : s.sp.toNat < 32 := hsp
    simp
    omega
  stackZero := by
    simp only [State.push_stack]
    rw [Vector.getElem_set_ne _ _ (Nat.succ_ne_zero _)]
    exact h.stackZero
  stackBound := fun c => by
    simp only [State.push_stack, Vector.getElem_set]
    split
    · exact hw
    · exact h.stackBound c
  pcBound := h.pcBound
  keyFlags := h.keyFlags

theorem State.Inv.popSp (h : s.Inv) : s.popSp.Inv := by
  unfold State.popSp
  split
  · exact h
  · next h0 =>
    have hb := h.spBound
    exact h.setSp (by bv_omega)

theorem State.Inv.clearKeys (h : s.Inv) : s.clearKeys.Inv :=
  { h with keyFlags := fun k => .inl (by simp) }

/-- From an address that was fetched from, pc + 2 and pc + 4 are within the bound of R27. -/
theorem toNat_add_skip_le {w : Word} (hw : w.toNat ≤ 4094) (taken : Bool) :
    (w + if taken then 4 else 2).toNat ≤ 0x10FE := by
  cases taken <;> simp [BitVec.toNat_add] <;> omega

theorem toNat_add_two_le {w : Word} (hw : w.toNat ≤ 4094) : (w + 2).toNat ≤ 0x10FE :=
  toNat_add_skip_le hw false

/-- An instruction fetched in range keeps the invariant. -/
theorem State.Inv.exec {i : Instr} (h : s.Inv) (hpc : s.pc.toNat ≤ 4094)
    (he : exec i s = .next t) : t.Inv := by
  have hadv := toNat_add_two_le hpc
  cases exec_effect he with
  | jump w hw => exact h.setPc hw
  | skip taken => exact h.setPc (toNat_add_skip_le hpc taken)
  | store bs => exact (h.setMem (Memory.wf_storeBounded h.memCanonical _ bs)).setPc hadv
  | call nnn hsp => exact (h.push hpc hsp).setPc (toNat_addrWord_le nnn)
  | ret hsp => exact h.popSp.setPc (toNat_add_two_le (h.stackBound ⟨_, hsp⟩))
  | wait | drwOutOfBounds | callOverflow => exact h.of_frame h.pcBound rfl rfl rfl rfl
  | _ => exact h.of_frame hadv rfl rfl rfl rfl

theorem State.Inv.executeOne (h : s.Inv) (he : executeOne s = .next t) : t.Inv := by
  rcases executeOne_cases he with ⟨-, rfl⟩ | ⟨-, -, rfl⟩ | ⟨i, hf, hi⟩
  · exact h.of_frame h.pcBound rfl rfl rfl rfl
  · exact h.of_frame h.pcBound rfl rfl rfl rfl
  · exact h.exec hf.1 hi

theorem State.Inv.endTick (h : s.Inv) (late : List Key) : (s.endTick late).Inv := by
  by_cases hr : s.status = .running
  · rw [State.endTick_running hr]
    exact h.clearKeys.of_frame h.pcBound rfl rfl rfl rfl
  · rw [State.endTick_fatal hr]
    exact h.pressKeys late

theorem State.Inv.step (h : s.Inv) (hs : step s = .next t) : t.Inv := by
  rcases step_cases hs with ⟨-, -, rfl⟩ | ⟨-, k, -, rfl⟩ | ⟨early, late, u, -, hu, rfl⟩
  · exact h.of_frame h.pcBound rfl rfl rfl rfl
  · exact h.keysLand [k]
  · exact ((h.keysLand early).executeOne hu).endTick late

theorem State.Inv.reset : State.reset.Inv where
  memCanonical := rfl
  spBound := by decide
  stackZero := rfl
  stackBound := fun c => by simp [State.reset]
  pcBound := by decide
  keyFlags := fun k => .inl (by simp [State.reset])

end

/-! ### A block whose run is over, and reset -/

theorem step_halted {s : State} {err : ErrRecord} (h : s.status = .halted err) :
    step s = .fault (.halted err) := by
  simp [step, h]

theorem step_stopped {s : State} (h : s.status = .stopped) : step s = .fault .stopped := by
  simp [step, h]

theorem Memory.unlisted_font (a : Fin 128) : Memory.unlisted a.val = Config.font[a.val] :=
  dif_pos a.isLt

theorem Memory.unlisted_of_le {a : Nat} (h : 128 ≤ a) : Memory.unlisted a = 0 :=
  dif_neg (Nat.not_lt.mpr h)

end Sys2Proof.Machine

namespace Sys2Proof.Proofs

open Sys2Proof.Machine

/-- Settles O16: `State.Inv.step`, from what each effect of an instruction does to the invariant. -/
theorem everyStepKeepsTheInvariant : Obligations.EveryStepKeepsTheInvariant :=
  fun _ _ hinv hs => hinv.step hs

/-- Settles O18. -/
theorem onlyDestinationRegistersChange : Obligations.OnlyDestinationRegistersChange :=
  fun _ _ _ _ h hr => exec_getV h hr

/-- Settles O19. -/
theorem onlyCallAndRetChangeTheStack : Obligations.OnlyCallAndRetChangeTheStack :=
  fun _ _ _ h => ⟨exec_sp h, exec_stack h, exec_stack_cell h⟩

/-- Settles O20. -/
theorem onlyClsAndDrwChangeTheFramebuffer : Obligations.OnlyClsAndDrwChangeTheFramebuffer :=
  fun _ _ _ h hcls hdrw => exec_fb h hcls hdrw

/-- Settles O22. -/
theorem onlyThreeInstructionsChangeI : Obligations.OnlyThreeInstructionsChangeI :=
  fun _ _ _ h hldI haddI hldF => exec_i h hldI haddI hldF

/-- Settles O23. -/
theorem timersKeysAndStatusAreKept : Obligations.TimersKeysAndStatusAreKept :=
  fun _ _ _ h =>
    ⟨exec_dt h, exec_st h, exec_draws h, exec_status h, exec_key h, exec_inputs h⟩

/-- Settles O12. -/
theorem onlyARunningBlockSteps : Obligations.OnlyARunningBlockSteps :=
  fun _ => ⟨fun _ h => step_halted h, step_stopped⟩

/-- Settles O17. -/
theorem resetMeetsTheInvariant : Obligations.ResetMeetsTheInvariant := State.Inv.reset

/-- Settles O56: each register file is filled with zeros, and memory lists nothing, so that every
address reads as it does unlisted. -/
theorem resetValues : Obligations.ResetValues := by
  refine ⟨rfl, fun r => ?_, rfl, rfl, fun c => ?_, rfl, rfl, fun r => ?_, fun k => ?_, rfl,
    Memory.unlisted_font, fun _ => Memory.unlisted_of_le⟩
  · simp [State.getV, State.reset]
  · simp [State.reset]
  · simp [State.reset]
  · simp [State.reset]

end Sys2Proof.Proofs

namespace Sys2Proof.Machine

/-! ### Memory and key-downs: what a store and a key-down leave alone -/

/-- A bounded store leaves every address outside its range, and every address beyond the memory. -/
theorem Memory.read_storeBounded_of_not_stored {bs : List Byte} {base a : Nat} (m : Memory)
    (h : ¬(base ≤ a ∧ a < base + bs.length ∧ a < memSize)) :
    (m.storeBounded base bs).read a = m.read a := by
  rw [Memory.read_storeBounded]
  split
  · have : bs.length ≤ a - base := by omega
    exact List.getD_eq_default _ _ this
  · rfl

/-- Only the stores of R143 and R144 write memory, and only as many bytes as `storeLength` says. -/
theorem exec_mem_read {i : Instr} {s t : State} {a : Nat} (h : exec i s = .next t)
    (ha : ¬(s.base ≤ a ∧ a < s.base + storeLength i ∧ a < memSize)) :
    t.mem.read a = s.mem.read a := by
  cases exec_effect h with
  | store bs hlen => exact Memory.read_storeBounded_of_not_stored s.mem (hlen ▸ ha)
  | ret => simp
  | _ => rfl

/-- A key-down between two ticks is the whole of its step (R98, R186). -/
theorem step_of_keyDown {s : State} {k : Key} (hr : s.status = .running)
    (hi : s.nextInput = .keyDown k) : step s = .next (s.keysLand [k]) := by
  simp [step, hr, hi]

/-- Landing key-downs changes the keypad and uses up the schedule entry, and nothing else. -/
theorem State.keysLand_frame (s : State) (ks : List Key) :
    s.keysLand ks = { s with key := (s.keysLand ks).key, inputs := s.inputs.tail } := by
  ext1 <;> simp

end Sys2Proof.Machine

namespace Sys2Proof.Proofs

open Sys2Proof.Machine

/-- Settles O21. -/
theorem onlyTheStoredBytesChange : Obligations.OnlyTheStoredBytesChange :=
  fun _ _ _ _ h ha => exec_mem_read h ha

/-- Settles O60: the step is the landing of k alone, and the sink reads the keypad as it is. -/
theorem keyDownBetweenTicksIsLatched : Obligations.KeyDownBetweenTicksIsLatched := by
  intro s k hr hi
  refine ⟨s.keysLand [k], step_of_keyDown hr hi, fun j => ?_, s.keysLand_frame [k]⟩
  have hflag := s.getElem_keysLand [k] j
  simpa only [State.latchedKeys, List.mem_singleton] using hflag

end Sys2Proof.Proofs

namespace Sys2Proof

open Sys2Proof.Laws Sys2Proof.Claims

/-! ### Encoding and decoding (30_encoding.md): each format rebuilt from the cuts of a word -/

section
variable {w : Word} {g : Nibble}

theorem packNNN_of_opG (hg : opG w = g) : packNNN g (opNNN w) = w := by
  rw [← hg, packNNN_cuts]

theorem packXKK_of_opG (hg : opG w = g) : packXKK g (opX w) (opKK w) = w := by
  rw [← hg, packXKK_cuts]

theorem packXKK_of_fixed {kk : Byte} (h : opG w = g ∧ opKK w = kk) : packXKK g (opX w) kk = w := by
  rw [← h.1, ← h.2, packXKK_cuts]

theorem packXYN_of_opG (hg : opG w = g) : packXYN g (opX w) (opY w) (opN w) = w := by
  rw [← hg, packXYN_cuts]

theorem packXYN_of_fixed {n : Nibble} (h : opG w = g ∧ opN w = n) :
    packXYN g (opX w) (opY w) n = w := by
  rw [← h.1, ← h.2, packXYN_cuts]

end

/-! ### The decoder on the word of an instruction -/

/-- A SYS is told from the words 00kk by its x field, which R75 says is not 0. -/
theorem opX_packNNN_ne_zero_iff {g : Nibble} {nnn : Addr} :
    opX (packNNN g nnn) ≠ 0 ↔ 0x100 ≤ nnn.toNat := by
  rw [Ne, Fin.ext_iff, val_opX_packNNN, Fin.val_zero]
  omega

theorem decode0_of_opX_ne_zero {w : Word} (h : opX w ≠ 0) : decode0 w = .ok (.sys (opNNN w)) := by
  have hcls : w ≠ 0x00E0 := fun e => h (by rw [e]; decide)
  have hret : w ≠ 0x00EE := fun e => h (by rw [e]; decide)
  rw [decode0, if_neg hcls, if_neg hret, if_pos h]

theorem decodeWord_encode {i : Instr} (h : i.wf = true) : decodeWord (encode i) = .ok i := by
  cases i with
  | cls | ret => rfl
  | sys nnn =>
    have hx : opX (packNNN 0#4 nnn) ≠ 0 := opX_packNNN_ne_zero_iff.mpr (of_decide_eq_true h)
    simp [encode, decodeWord, decode0_of_opX_ne_zero hx]
  | ldReg | orReg | andReg | xorReg | addReg | subReg | shr | subn | shl =>
    simp [encode, decodeWord, decode8]
  | skp | sknp => simp [encode, decodeWord, decodeE]
  | ldVxDt | ldVxK | ldDtVx | ldStVx | addI | ldF | ldB | storeRegs | loadRegs =>
    simp [encode, decodeWord, decodeF]
  | _ => simp [encode, decodeWord]

theorem decodeBytes_encodeBytes {i : Instr} (h : i.wf = true) (rest : List Byte) :
    decodeBytes (encodeBytes i ++ rest) = .ok (i, rest) := by
  simp [encodeBytes, decodeBytes, decodeWord_encode h, Except.map]

/-! ### What the decoder says of any word -/

/-- R202's list, by the cuts of the word. -/
theorem invalidWord_iff (w : Word) : InvalidWord w ↔
    (opG w = 0 ∧ opX w = 0 ∧ w ∉ [0x00E0, 0x00EE]) ∨
    ((opG w = 5 ∨ opG w = 9) ∧ opN w ≠ 0) ∨
    (opG w = 8 ∧ opN w ∉ [0, 1, 2, 3, 4, 5, 6, 7, 0xE]) ∨
    (opG w = 0xE ∧ opKK w ∉ [0x9E, 0xA1]) ∨
    (opG w = 0xF ∧ opKK w ∉ [0x07, 0x0A, 0x15, 0x18, 0x1E, 0x29, 0x33, 0x55, 0x65]) := by
  have hg := toNat_opG w
  have hx := val_opX w
  have hn := toNat_opN w
  have hkk := toNat_opKK w
  simp only [InvalidWord, Fin.ext_iff, Fin.val_zero, List.mem_cons, List.not_mem_nil,
    or_false, not_or]
  refine or_congr ?_ (or_congr ?_ (or_congr ?_ (or_congr ?_ ?_)))
  all_goals bv_omega

/-- What a word may decode to: a well-formed instruction of which it is the encoding, or, for the
words of R202's list and no others, a rejection. -/
def DecodesSoundly (w : Word) : Except DecodeReject Instr → Prop
  | .ok i => i.wf = true ∧ encode i = w ∧ ¬InvalidWord w
  | .error _ => InvalidWord w

section
variable {w : Word}

theorem decode0_sound (hg : opG w = 0#4) : DecodesSoundly w (decode0 w) := by
  unfold decode0
  split_ifs with hcls hret hx
  · exact ⟨rfl, hcls.symm, by rw [hcls]; simp [InvalidWord]⟩
  · exact ⟨rfl, hret.symm, by rw [hret]; simp [InvalidWord]⟩
  · have hnnn : 0x100 ≤ (opNNN w).toNat :=
      opX_packNNN_ne_zero_iff.mp (by rwa [packNNN_of_opG hg])
    exact ⟨decide_eq_true hnnn, packNNN_of_opG hg, by simp [invalidWord_iff, hg, hx]⟩
  · simp_all [DecodesSoundly, invalidWord_iff]

theorem decode8_sound (hg : opG w = 8#4) : DecodesSoundly w (decode8 w) := by
  unfold decode8
  split
  case h_10 => simp_all [DecodesSoundly, invalidWord_iff]
  all_goals
    next hn => exact ⟨rfl, packXYN_of_fixed ⟨hg, hn⟩, by simp [invalidWord_iff, hg, hn]⟩

theorem decodeE_sound (hg : opG w = 0xE#4) : DecodesSoundly w (decodeE w) := by
  unfold decodeE
  split
  case h_3 => simp_all [DecodesSoundly, invalidWord_iff]
  all_goals
    next hkk => exact ⟨rfl, packXKK_of_fixed ⟨hg, hkk⟩, by simp [invalidWord_iff, hg, hkk]⟩

theorem decodeF_sound (hg : opG w = 0xF#4) : DecodesSoundly w (decodeF w) := by
  unfold decodeF
  split
  case h_10 => simp_all [DecodesSoundly, invalidWord_iff]
  all_goals
    next hkk => exact ⟨rfl, packXKK_of_fixed ⟨hg, hkk⟩, by simp [invalidWord_iff, hg, hkk]⟩

/-- Groups 5 and 9 (R76). -/
theorem decodePair_sound {i : Instr} (hg : opG w = 5#4 ∨ opG w = 9#4) (hwf : i.wf = true)
    (he : encode i = packXYN (opG w) (opX w) (opY w) 0#4) :
    DecodesSoundly w (if opN w = 0 then .ok i else .error .pairNibble) := by
  split
  · next hn =>
    refine ⟨hwf, he.trans (packXYN_of_fixed ⟨rfl, hn⟩), ?_⟩
    rcases hg with hg | hg <;> simp [invalidWord_iff, hg, hn]
  · next hn => exact (invalidWord_iff w).mpr (.inr (.inl ⟨hg, hn⟩))

end

/-- By the group: first 0, 5, 8, 9, D, E and F, then those of the format `g x kk`, and last those of
`g nnn` (R71), which have one form each. -/
theorem decodeWord_sound (w : Word) : DecodesSoundly w (decodeWord w) := by
  unfold decodeWord
  split
  case h_1 hg => exact decode0_sound hg
  case h_6 hg => exact decodePair_sound (.inl hg) rfl (by rw [hg]; rfl)
  case h_9 hg => exact decode8_sound hg
  case h_10 hg => exact decodePair_sound (.inr hg) rfl (by rw [hg]; rfl)
  case h_14 hg => exact ⟨rfl, packXYN_of_opG hg, by simp [invalidWord_iff, hg]⟩
  case h_15 hg => exact decodeE_sound hg
  case h_16 =>
    refine decodeF_sound ?_
    simp only [imp_false] at *
    bv_omega
  case h_4 hg | h_5 hg | h_7 hg | h_8 hg | h_13 hg =>
    exact ⟨rfl, packXKK_of_opG hg, by simp [invalidWord_iff, hg]⟩
  all_goals
    next hg => exact ⟨rfl, packNNN_of_opG hg, by simp [invalidWord_iff, hg]⟩

/-! ### The rows of R74 -/

theorem OpcodeRow.covers_iff {r : OpcodeRow} {w : Word} :
    r.covers w = true ↔ w &&& r.mask = r.pat ∧ (r.xNonzero = true → opX w ≠ 0) := by
  cases hx : r.xNonzero <;> simp [OpcodeRow.covers, hx]

theorem Instr.row_mem_opcodeTable (i : Instr) : i.row ∈ opcodeTable := by
  cases i <;> simp [opcodeTable, Instr.row]

/-- The facts `RowCovers`, one per form, taken together. -/
theorem row_covers_encode {i : Instr} (h : i.wf = true) : i.row.covers (encode i) = true :=
  match i with
  | .cls => RowCovers.cls h
  | .ret => RowCovers.ret h
  | .sys _ => RowCovers.sys _ h
  | .jp _ => RowCovers.jp _ h
  | .call _ => RowCovers.call _ h
  | .seImm _ _ => RowCovers.seImm _ _ h
  | .sneImm _ _ => RowCovers.sneImm _ _ h
  | .seReg _ _ => RowCovers.seReg _ _ h
  | .ldImm _ _ => RowCovers.ldImm _ _ h
  | .addImm _ _ => RowCovers.addImm _ _ h
  | .ldReg _ _ => RowCovers.ldReg _ _ h
  | .orReg _ _ => RowCovers.orReg _ _ h
  | .andReg _ _ => RowCovers.andReg _ _ h
  | .xorReg _ _ => RowCovers.xorReg _ _ h
  | .addReg _ _ => RowCovers.addReg _ _ h
  | .subReg _ _ => RowCovers.subReg _ _ h
  | .shr _ _ => RowCovers.shr _ _ h
  | .subn _ _ => RowCovers.subn _ _ h
  | .shl _ _ => RowCovers.shl _ _ h
  | .sneReg _ _ => RowCovers.sneReg _ _ h
  | .ldI _ => RowCovers.ldI _ h
  | .jpV0 _ => RowCovers.jpV0 _ h
  | .rnd _ _ => RowCovers.rnd _ _ h
  | .drw _ _ _ => RowCovers.drw _ _ _ h
  | .skp _ => RowCovers.skp _ h
  | .sknp _ => RowCovers.sknp _ h
  | .ldVxDt _ => RowCovers.ldVxDt _ h
  | .ldVxK _ => RowCovers.ldVxK _ h
  | .ldDtVx _ => RowCovers.ldDtVx _ h
  | .ldStVx _ => RowCovers.ldStVx _ h
  | .addI _ => RowCovers.addI _ h
  | .ldF _ => RowCovers.ldF _ h
  | .ldB _ => RowCovers.ldB _ h
  | .storeRegs _ => RowCovers.storeRegs _ h
  | .loadRegs _ => RowCovers.loadRegs _ h

/-- A word that a row covers is the encoding of an instruction of that row: the one whose fields are
the cuts of the word. -/
theorem exists_encode_of_covers (i : Instr) {w : Word} (h : i.row.covers w = true) :
    ∃ j : Instr, j.wf = true ∧ encode j = w ∧ j.row = i.row := by
  obtain ⟨hm, hnz⟩ := OpcodeRow.covers_iff.mp h
  cases i with
  | cls => exact ⟨.cls, rfl, (BitVec.and_allOnes.symm.trans hm).symm, rfl⟩
  | ret => exact ⟨.ret, rfl, (BitVec.and_allOnes.symm.trans hm).symm, rfl⟩
  | sys =>
    have he : packNNN 0#4 (opNNN w) = w := packNNN_of_opG ((mask_group w _).mp hm)
    have hx : opX (packNNN 0#4 (opNNN w)) ≠ 0 := by
      rw [he]
      exact hnz rfl
    exact ⟨.sys (opNNN w), decide_eq_true (opX_packNNN_ne_zero_iff.mp hx), he, rfl⟩
  | jp => exact ⟨.jp (opNNN w), rfl, packNNN_of_opG ((mask_group w _).mp hm), rfl⟩
  | call => exact ⟨.call (opNNN w), rfl, packNNN_of_opG ((mask_group w _).mp hm), rfl⟩
  | seImm => exact ⟨.seImm (opX w) (opKK w), rfl, packXKK_of_opG ((mask_group w _).mp hm), rfl⟩
  | sneImm => exact ⟨.sneImm (opX w) (opKK w), rfl, packXKK_of_opG ((mask_group w _).mp hm), rfl⟩
  | seReg => exact ⟨.seReg (opX w) (opY w), rfl, packXYN_of_fixed ((mask_pair w _ _).mp hm), rfl⟩
  | ldImm => exact ⟨.ldImm (opX w) (opKK w), rfl, packXKK_of_opG ((mask_group w _).mp hm), rfl⟩
  | addImm => exact ⟨.addImm (opX w) (opKK w), rfl, packXKK_of_opG ((mask_group w _).mp hm), rfl⟩
  | ldReg => exact ⟨.ldReg (opX w) (opY w), rfl, packXYN_of_fixed ((mask_pair w _ _).mp hm), rfl⟩
  | orReg => exact ⟨.orReg (opX w) (opY w), rfl, packXYN_of_fixed ((mask_pair w _ _).mp hm), rfl⟩
  | andReg => exact ⟨.andReg (opX w) (opY w), rfl, packXYN_of_fixed ((mask_pair w _ _).mp hm), rfl⟩
  | xorReg => exact ⟨.xorReg (opX w) (opY w), rfl, packXYN_of_fixed ((mask_pair w _ _).mp hm), rfl⟩
  | addReg => exact ⟨.addReg (opX w) (opY w), rfl, packXYN_of_fixed ((mask_pair w _ _).mp hm), rfl⟩
  | subReg => exact ⟨.subReg (opX w) (opY w), rfl, packXYN_of_fixed ((mask_pair w _ _).mp hm), rfl⟩
  | shr => exact ⟨.shr (opX w) (opY w), rfl, packXYN_of_fixed ((mask_pair w _ _).mp hm), rfl⟩
  | subn => exact ⟨.subn (opX w) (opY w), rfl, packXYN_of_fixed ((mask_pair w _ _).mp hm), rfl⟩
  | shl => exact ⟨.shl (opX w) (opY w), rfl, packXYN_of_fixed ((mask_pair w _ _).mp hm), rfl⟩
  | sneReg => exact ⟨.sneReg (opX w) (opY w), rfl, packXYN_of_fixed ((mask_pair w _ _).mp hm), rfl⟩
  | ldI => exact ⟨.ldI (opNNN w), rfl, packNNN_of_opG ((mask_group w _).mp hm), rfl⟩
  | jpV0 => exact ⟨.jpV0 (opNNN w), rfl, packNNN_of_opG ((mask_group w _).mp hm), rfl⟩
  | rnd => exact ⟨.rnd (opX w) (opKK w), rfl, packXKK_of_opG ((mask_group w _).mp hm), rfl⟩
  | drw => exact ⟨.drw (opX w) (opY w) (opN w), rfl, packXYN_of_opG ((mask_group w _).mp hm), rfl⟩
  | skp => exact ⟨.skp (opX w), rfl, packXKK_of_fixed ((mask_sub w _ _).mp hm), rfl⟩
  | sknp => exact ⟨.sknp (opX w), rfl, packXKK_of_fixed ((mask_sub w _ _).mp hm), rfl⟩
  | ldVxDt => exact ⟨.ldVxDt (opX w), rfl, packXKK_of_fixed ((mask_sub w _ _).mp hm), rfl⟩
  | ldVxK => exact ⟨.ldVxK (opX w), rfl, packXKK_of_fixed ((mask_sub w _ _).mp hm), rfl⟩
  | ldDtVx => exact ⟨.ldDtVx (opX w), rfl, packXKK_of_fixed ((mask_sub w _ _).mp hm), rfl⟩
  | ldStVx => exact ⟨.ldStVx (opX w), rfl, packXKK_of_fixed ((mask_sub w _ _).mp hm), rfl⟩
  | addI => exact ⟨.addI (opX w), rfl, packXKK_of_fixed ((mask_sub w _ _).mp hm), rfl⟩
  | ldF => exact ⟨.ldF (opX w), rfl, packXKK_of_fixed ((mask_sub w _ _).mp hm), rfl⟩
  | ldB => exact ⟨.ldB (opX w), rfl, packXKK_of_fixed ((mask_sub w _ _).mp hm), rfl⟩
  | storeRegs => exact ⟨.storeRegs (opX w), rfl, packXKK_of_fixed ((mask_sub w _ _).mp hm), rfl⟩
  | loadRegs => exact ⟨.loadRegs (opX w), rfl, packXKK_of_fixed ((mask_sub w _ _).mp hm), rfl⟩

/-- A word that a row of the table covers decodes to an instruction of that row. -/
theorem exists_decodeWord_of_covers {r : OpcodeRow} {w : Word} (hr : r ∈ opcodeTable)
    (h : r.covers w = true) : ∃ j, decodeWord w = .ok j ∧ j.row = r := by
  obtain ⟨i, -, rfl⟩ := List.mem_map.mp hr
  obtain ⟨j, hwf, rfl, hrow⟩ := exists_encode_of_covers i h
  exact ⟨j, decodeWord_encode hwf, hrow⟩

end Sys2Proof

namespace Sys2Proof.Proofs

/-- Settles O1: by the form of the instruction, whose fields the cuts take out of its word. -/
theorem encodedInstructionDecodesBack : Obligations.EncodedInstructionDecodesBack :=
  fun _ h => ⟨decodeWord_encode h, decodeBytes_encodeBytes h⟩

/-- Settles O2: the decoder's fields are the cuts of the word, which packed again are the word. -/
theorem decodedWordEncodesBack : Obligations.DecodedWordEncodesBack := by
  intro w i hd
  have hsound := decodeWord_sound w
  rw [hd] at hsound
  obtain ⟨hwf, he, -⟩ := hsound
  exact ⟨hwf, he⟩

/-- Settles O3: `decodeWord_sound` says of each answer on which side of R202's list the word is. -/
theorem rejectedWordsAreTheInvalidOnes : Obligations.RejectedWordsAreTheInvalidOnes := by
  intro w
  have hsound := decodeWord_sound w
  cases hd : decodeWord w with
  | error e =>
    rw [hd] at hsound
    exact iff_of_true ⟨e, rfl⟩ hsound
  | ok i =>
    rw [hd] at hsound
    obtain ⟨-, -, hvalid⟩ := hsound
    exact iff_of_false nofun hvalid

/-- Settles O4: a row that covers a word is that of the instruction the word decodes to, which
determinism of the decoder makes the only one. -/
theorem wordBelongsToItsRowOnly : Obligations.WordBelongsToItsRowOnly := by
  intro w
  constructor
  · intro i hd
    obtain ⟨hwf, rfl⟩ := decodedWordEncodesBack w i hd
    refine ⟨i.row_mem_opcodeTable, fun r hr => ⟨fun hc => ?_, fun hrow => ?_⟩⟩
    · obtain ⟨j, hj, rfl⟩ := exists_decodeWord_of_covers hr hc
      rw [Except.ok.inj (hj.symm.trans hd)]
    · rw [hrow]
      exact row_covers_encode hwf
  · intro e hd r hr
    refine Bool.eq_false_iff.mpr fun hc => ?_
    obtain ⟨j, hj, -⟩ := exists_decodeWord_of_covers hr hc
    rw [hd] at hj
    cases hj

/-- Settles O5, by running the decoder on each word. -/
theorem writtenOutWordsDecode : Obligations.WrittenOutWordsDecode := by
  unfold Obligations.WrittenOutWordsDecode
  decide

end Sys2Proof.Proofs

namespace Sys2Proof.Machine

/-! ### The execution cycle (40_execution_cycle.md): each outcome of the checks, and progress -/

/-- The fetch bound is checked before memory is read (R92, R201). -/
theorem executeOne_of_pc_out_of_bounds {s : State} (h : 4094 < s.pc.toNat) :
    executeOne s = .next (s.raise .programCounterOutOfBounds none) := by
  unfold executeOne
  rw [State.fetch_none h]

/-- A fetched word that is INVALID (R202, R208). -/
theorem executeOne_of_invalid {s : State} {e : DecodeReject} (hp : s.pc.toNat ≤ 4094)
    (hd : decodeWord (opcodeOf (s.mem.read s.pc.toNat) (s.mem.read (s.pc.toNat + 1))) = .error e) :
    executeOne s = .next (s.raise .invalidInstruction
      (some (s.mem.read s.pc.toNat, s.mem.read (s.pc.toNat + 1)))) := by
  unfold executeOne
  rw [State.fetch_some hp]
  simp only [hd]

/-- RET is the only instruction that can fault, and it does not while SP names a cell (R29, R30). -/
theorem exists_exec_next {s : State} (i : Instr) (hsp : s.sp.toNat ≤ 32) :
    ∃ t, exec i s = .next t := by
  rcases exec_cases i s with ⟨t, ht, -⟩ | ⟨-, hcell, -⟩
  · exact ⟨t, ht⟩
  · omega

/-- Every outcome of the checks of R208 is a next state: a fatal error is one too. -/
theorem exists_executeOne_next {s : State} (hsp : s.sp.toNat ≤ 32) :
    ∃ t, executeOne s = .next t := by
  rcases Nat.lt_or_ge 4094 s.pc.toNat with hp | hp
  · exact ⟨_, executeOne_of_pc_out_of_bounds hp⟩
  · cases hd : decodeWord (opcodeOf (s.mem.read s.pc.toNat) (s.mem.read (s.pc.toNat + 1))) with
    | error e => exact ⟨_, executeOne_of_invalid hp hd⟩
    | ok i =>
      rw [executeOne_of_fetches ⟨hp, hd⟩]
      exact exists_exec_next i hsp

/-- The quit is the whole of its step (R97). -/
theorem step_of_quit {s : State} (hr : s.status = .running) (hi : s.nextInput = .quit) :
    step s = .next s.stop := by
  simp [step, hr, hi]

/-- A tick whose execution raises a fatal error: the state the error was raised in, Halted, on which the
late key-downs land and no end-of-tick work is done (R96, R205). -/
theorem step_of_raise {s : State} {early late : List Key} {kind : ErrKind}
    {bytes : Option (Byte × Byte)} (h : s.Ticks early late)
    (he : executeOne (s.keysLand early) = .next ((s.keysLand early).raise kind bytes)) :
    step s = .next (({ s.keysLand early with
      status := .halted ⟨kind, s.pc, bytes⟩ } : State).pressKeys late) := by
  rw [step_eq_endTick h he, State.endTick_fatal (by simp), State.raise, State.keysLand_pc]
  rfl

end Sys2Proof.Machine

namespace Sys2Proof.Proofs

open Sys2Proof.Machine

/-- Settles O15: by whose step comes next; a tick steps because the invariant bounds SP, which landing
key-downs do not touch. -/
theorem runningBlockAlwaysSteps : Obligations.RunningBlockAlwaysSteps := by
  intro s hinv hr
  cases hi : s.nextInput with
  | quit => exact ⟨_, step_of_quit hr hi⟩
  | keyDown k => exact ⟨_, step_of_keyDown hr hi⟩
  | tick early late =>
    obtain ⟨u, hu⟩ := exists_executeOne_next (hinv.keysLand early).spBound
    exact ⟨_, step_eq_endTick ⟨hr, hi⟩ hu⟩

/-- Settles O6: the early key-downs leave pc and memory, so the word the tick decodes is the one at pc
before it. -/
theorem stepRunsTheDecodedInstruction : Obligations.StepRunsTheDecodedInstruction := by
  intro s early late ht hpc
  constructor
  · intro e hd
    have hexec := executeOne_of_invalid (s := s.keysLand early) (e := e)
      (by simpa using hpc) (by simpa [Claims.opcodeAt] using hd)
    simp only [State.keysLand_pc, State.keysLand_mem] at hexec
    exact step_of_raise ht hexec
  · intro i hd
    have hfetch : (s.keysLand early).Fetches i := (State.fetches_keysLand early).mpr ⟨hpc, hd⟩
    rw [step_of_ticks ht, ← executeOne_of_fetches hfetch]
    rfl

/-- Settles O7. -/
theorem fetchOutOfBoundsHalts : Obligations.FetchOutOfBoundsHalts :=
  fun _ _ _ ht hpc => step_of_raise ht (executeOne_of_pc_out_of_bounds (by simpa using hpc))

/-- Settles O8: `State.endTick_running` says what the end of the tick leaves. -/
theorem endOfTickClearsKeysAndStepsTimers : Obligations.EndOfTickClearsKeysAndStepsTimers := by
  intro s u early late ht hu hr
  refine ⟨u.endTick late, step_eq_endTick ht hu, ?_⟩
  rw [State.endTick_running hr]
  exact ⟨fun k => by simp, toNat_timerStep u.dt, toNat_timerStep u.st, rfl⟩

/-- Settles O11. -/
theorem quitStopsTheBlock : Obligations.QuitStopsTheBlock := fun _ hr hi => step_of_quit hr hi

end Sys2Proof.Proofs

/-! ## Jumps, call, return and skips (41_control_flow.md) -/

namespace Sys2Proof

/-! ### The decoder on a word given as a number (R71, R74) -/

theorem decodeWord_ofNat {i : Instr} {n : Nat} (hwf : i.wf = true) (hn : (encode i).toNat = n) :
    decodeWord (BitVec.ofNat 16 n) = .ok i := by
  rw [← hn, BitVec.ofNat_toNat, BitVec.setWidth_eq, decodeWord_encode hwf]

/-- The format `g x y n` of R71 with n as a number. -/
theorem ofNat_eq_packXYN (g : Nibble) (x y : Reg) {n : Nat} (hn : n < 16) :
    BitVec.ofNat 16 (0x1000 * g.toNat + 0x100 * x.val + 0x10 * y.val + n) =
      packXYN g x y (BitVec.ofNat 4 n) := by
  have hnibble : (BitVec.ofNat 4 n).toNat = n := Nat.mod_eq_of_lt hn
  rw [← BitVec.setWidth_eq (packXYN g x y _), ← BitVec.ofNat_toNat, toNat_packXYN, hnibble]

/-- R76: groups 5 and 9 have a form for the low nibble 0 only. -/
theorem decodeWord_pair_error {g : Nibble} (hg : g = 5#4 ∨ g = 9#4) (x y : Reg) {n : Nat}
    (hpos : 0 < n) (hn : n < 16) :
    decodeWord (BitVec.ofNat 16 (0x1000 * g.toNat + 0x100 * x.val + 0x10 * y.val + n)) =
      .error .pairNibble := by
  have hne : BitVec.ofNat 4 n ≠ 0#4 := by bv_omega
  rw [ofNat_eq_packXYN g x y hn]
  rcases hg with rfl | rfl <;> simp [decodeWord, hne]

/-! ### The bytes of a word of the format `g nnn` (R55, R71) -/

theorem firstByte_packNNN (g : Nibble) (nnn : Addr) :
    firstByte (packNNN g nnn) = BitVec.ofNat 8 (0x10 * g.toNat + nnn.toNat / 0x100) := by
  have := nnn.isLt
  have := g.isLt
  refine BitVec.eq_of_toNat_eq ?_
  rw [toNat_firstByte, toNat_packNNN, BitVec.toNat_ofNat]
  omega

theorem secondByte_packNNN (g : Nibble) (nnn : Addr) :
    secondByte (packNNN g nnn) = BitVec.ofNat 8 nnn.toNat := by
  refine BitVec.eq_of_toNat_eq ?_
  rw [toNat_secondByte, toNat_packNNN, BitVec.toNat_ofNat]
  omega

end Sys2Proof

namespace Sys2Proof.Machine

/-! ### Jump targets and the fetch bound (R92, R102, R109) -/

theorem addrWord_eq_ofNat (nnn : Addr) : addrWord nnn = BitVec.ofNat 16 nnn.toNat :=
  (BitVec.ofNat_toNat 16 nnn).symm

theorem State.setPc_addrWord (s : State) (nnn : Addr) :
    s.setPc (addrWord nnn) = { s with pc := BitVec.ofNat 16 nnn.toNat } := by
  rw [addrWord_eq_ofNat, State.setPc]

/-- The sum of R109 does not wrap. -/
theorem toNat_addrWord_add_byteWord (nnn : Addr) (b : Byte) :
    (addrWord nnn + byteWord b).toNat = nnn.toNat + b.toNat := by
  have := nnn.isLt
  have := b.isLt
  rw [BitVec.toNat_add, toNat_addrWord, toNat_byteWord]
  omega

theorem State.fetch_eq_none_iff {s : State} : s.fetch = none ↔ 4094 < s.pc.toNat := by
  refine ⟨fun h => Nat.lt_of_not_le fun hp => ?_, State.fetch_none⟩
  rw [State.fetch_some hp] at h
  cases h

/-! ### Skips (R94) -/

/-- A skip whose test says that c does not hold. -/
theorem State.skipIf_of_iff_not (s : State) (c : Prop) [Decidable c] {b : Bool}
    (h : b = true ↔ ¬c) : s.skipIf b = { s with pc := s.pc + if c then 2 else 4 } := by
  rw [State.skipIf_of_iff s (¬c) h, ite_not]

theorem exec_seReg (x y : Reg) (s : State) :
    exec (.seReg x y) s = .next { s with pc := s.pc + if s.getV x = s.getV y then 4 else 2 } :=
  congrArg _ (State.skipIf_of_iff s _ beq_iff_eq)

theorem exec_sneReg (x y : Reg) (s : State) :
    exec (.sneReg x y) s = .next { s with pc := s.pc + if s.getV x = s.getV y then 2 else 4 } :=
  congrArg _ (State.skipIf_of_iff_not s _ bne_iff_ne)

/-! ### The call stack (R30, R103, R104) -/

section
variable {s : State}

theorem exec_call_push (nnn : Addr) (h : s.sp.toNat < 32) :
    exec (.call nnn) s = .next ((s.push s.pc h).setPc (addrWord nnn)) := dif_pos h

theorem exec_call_overflow (nnn : Addr) (h : 32 ≤ s.sp.toNat) :
    exec (.call nnn) s = .next (s.raiseFrom (.call nnn) .stackOverflow) :=
  dif_neg (Nat.not_lt.mpr h)

theorem exec_ret_cell (h : s.sp.toNat ≤ 32) :
    exec .ret s = .next (s.popSp.setPc (s.stack[s.sp.toNat]'(Nat.lt_succ_of_le h) + 2)) :=
  dif_pos (Nat.lt_succ_of_le h)

theorem exec_ret_noCell (h : 32 < s.sp.toNat) : exec .ret s = .fault .noStackCell :=
  dif_neg (Nat.not_lt.mpr h)

theorem State.toNat_sp_push (w : Word) (h : s.sp.toNat < stackCapacity) :
    (s.push w h).sp.toNat = s.sp.toNat + 1 := by
  have : s.sp.toNat < 32 := h
  rw [State.push_sp]
  bv_omega

theorem State.toNat_sp_popSp : s.popSp.sp.toNat = s.sp.toNat - 1 := by
  rw [State.popSp_sp]
  split <;> bv_omega

/-- The cells up to the new SP after a push: those up to the old SP, and then the pushed word. -/
theorem State.take_stack_push (w : Word) (h : s.sp.toNat < stackCapacity) :
    (s.push w h).stack.toList.take (s.sp.toNat + 2) =
      s.stack.toList.take (s.sp.toNat + 1) ++ [w] := by
  have hlen : s.sp.toNat + 1 < s.stack.toList.length := by
    rw [Vector.length_toList]
    exact Nat.succ_lt_succ h
  rw [State.push_stack, Vector.toList_set, List.take_succ_eq_append_getElem (by simpa using hlen),
    List.getElem_set_self, List.take_set_of_le (Nat.le_refl _)]

end

/-- CALLs that the stack has room for raise no error; above the cells in use they stack, in order,
the addresses they were made from: that of the first CALL, then each target but the last (R110). -/
theorem exists_callAll_next (targets : List Addr) (s : State)
    (h : s.sp.toNat + targets.length ≤ 32) :
    ∃ t, Claims.callAll targets s = .next t ∧ t.sp.toNat = s.sp.toNat + targets.length ∧
      t.status = s.status ∧
      t.stack.toList.take (s.sp.toNat + 1 + targets.length) =
        s.stack.toList.take (s.sp.toNat + 1) ++
          (s.pc :: targets.map addrWord).take targets.length := by
  induction targets generalizing s with
  | nil => exact ⟨s, rfl, rfl, rfl, by simp⟩
  | cons a targets ih =>
    rw [List.length_cons] at h
    have hsp : s.sp.toNat < 32 := by omega
    have hpush := State.toNat_sp_push s.pc hsp
    obtain ⟨t, ht, htsp, hstatus, hcells⟩ := ih ((s.push s.pc hsp).setPc (addrWord a)) (by
      rw [State.setPc_sp, hpush]
      omega)
    rw [State.setPc_sp, hpush] at htsp hcells
    rw [State.setPc_stack, State.setPc_pc, State.take_stack_push] at hcells
    refine ⟨t, ?_, ?_, hstatus, ?_⟩
    · rw [Claims.callAll, exec_call_push a hsp]
      exact ht
    · rw [htsp, List.length_cons]
      omega
    · have hlen : s.sp.toNat + 1 + (targets.length + 1) = s.sp.toNat + 1 + 1 + targets.length := by
        omega
      rw [List.length_cons, hlen, hcells, List.map_cons, List.take_succ_cons, ← List.append_cons]

end Sys2Proof.Machine

namespace Sys2Proof.Proofs

open Sys2Proof.Machine

/-- Settles O29: RET reads the cell that the CALL pushed to, and SP goes one up and one down. -/
theorem retUndoesCall : Obligations.RetUndoesCall := by
  intro nnn s t u hsp hcall husp hustack
  rw [exec_call_push nnn hsp] at hcall
  obtain rfl := Host.Outcome.next.inj hcall
  have hu : u.sp.toNat = s.sp.toNat + 1 := by
    rw [husp]
    exact State.toNat_sp_push s.pc hsp
  refine ⟨_, exec_ret_cell (by omega), ?_, ?_⟩
  · simp [hu, hustack]
  · refine BitVec.eq_of_toNat_eq ?_
    rw [State.setPc_sp, State.toNat_sp_popSp, hu, Nat.add_sub_cancel]

/-- Settles O30: with SP = 0 the cells in use are cell 0 alone, which `drop 1` takes off. -/
theorem nestedCallsStackTheirAddresses : Obligations.NestedCallsStackTheirAddresses := by
  intro targets s h0 hlen
  have hsp : s.sp.toNat = 0 := by rw [h0]; rfl
  obtain ⟨t, ht, htsp, hstatus, hcells⟩ := exists_callAll_next targets s (by omega)
  rw [hsp, Nat.zero_add] at htsp hcells
  refine ⟨t, ht, htsp, hstatus, ?_⟩
  rw [← funext addrWord_eq_ofNat, List.take_drop, hcells, List.drop_left' (by simp)]

/-- Settles O24: a 12-bit target is beyond the fetch bound 4094 only as 4095. -/
theorem jpGoesToItsAddress : Obligations.JpGoesToItsAddress := by
  intro nnn s
  refine ⟨decodeWord_ofNat rfl (toNat_packNNN 1#4 nnn), _, rfl,
    s.setPc_addrWord nnn, ?_⟩
  rw [State.fetch_eq_none_iff, State.setPc_pc, toNat_addrWord]
  bv_omega

/-- Settles O25. -/
theorem sysIsAJump : Obligations.SysIsAJump := fun nnn s =>
  ⟨fun h => decodeWord_ofNat (decide_eq_true h) (by simp [encode, toNat_packNNN]),
    congrArg _ (s.setPc_addrWord nnn)⟩

/-- Settles O26. -/
theorem callPushesItsOwnAddress : Obligations.CallPushesItsOwnAddress := by
  intro nnn s h
  refine ⟨_, exec_call_push nnn h, State.toNat_sp_push s.pc h, fun c => ?_,
    State.setPc_addrWord _ nnn⟩
  simp only [State.setPc_stack, State.push_stack, Vector.getElem_set, eq_comm]

/-- Settles O27: the bytes in the record are those of the word 2nnn. -/
theorem callBeyondCapacityOverflows : Obligations.CallBeyondCapacityOverflows := by
  intro nnn s h
  rw [exec_call_overflow nnn h, State.raiseFrom, encode, firstByte_packNNN, secondByte_packNNN]
  rfl

/-- Settles O28. -/
theorem retReturnsBehindTheCall : Obligations.RetReturnsBehindTheCall := by
  refine fun s => ⟨fun h => ⟨_, exec_ret_cell h, State.toNat_sp_popSp, ?_⟩, exec_ret_noCell⟩
  ext1 <;> simp

/-- Settles O31. -/
theorem skipsOnAByte : Obligations.SkipsOnAByte := fun x kk s =>
  ⟨decodeWord_ofNat rfl (toNat_packXKK 3#4 x kk), decodeWord_ofNat rfl (toNat_packXKK 4#4 x kk),
    congrArg _ (State.skipIf_of_iff s _ beq_iff_eq),
    congrArg _ (State.skipIf_of_iff_not s _ bne_iff_ne),
    State.fetch_none (show 4094 < ((4094 : Word) + 4).toNat by decide)⟩

/-- Settles O32. -/
theorem skipsOnARegister : Obligations.SkipsOnARegister := by
  intro x y s
  refine ⟨decodeWord_ofNat rfl (toNat_packXYN 5#4 x y 0#4),
    decodeWord_ofNat rfl (toNat_packXYN 9#4 x y 0#4), fun n hpos hn => ⟨?_, ?_⟩,
    exec_seReg x y s, exec_sneReg x y s, ?_, ?_⟩
  · exact decodeWord_pair_error (.inl rfl) x y hpos hn
  · exact decodeWord_pair_error (.inr rfl) x y hpos hn
  · rw [exec_seReg, if_pos rfl]
  · rw [exec_sneReg, if_pos rfl]

/-- Settles O33. -/
theorem jpV0AddsV0 : Obligations.JpV0AddsV0 :=
  fun nnn s => ⟨_, rfl, toNat_addrWord_add_byteWord nnn (s.getV 0), rfl⟩

end Sys2Proof.Proofs

/-! ## Loads, arithmetic and random bytes (42_alu.md) -/

namespace Sys2Proof

/-- The group 8 words `8xyN` as 42_alu.md writes them, the low nibble first in the sum. -/
theorem decodeWord_group8 {i : Instr} {x y : Reg} {n : Nibble} (hwf : i.wf = true)
    (he : encode i = packXYN 8#4 x y n) :
    decodeWord (BitVec.ofNat 16 (0x8000 + n.toNat + 0x100 * x.val + 0x10 * y.val)) = .ok i := by
  refine decodeWord_ofNat hwf ?_
  rw [he, toNat_packXYN, BitVec.toNat_ofNat]
  omega

end Sys2Proof

namespace Sys2Proof.Machine

/-! ### Flags and shifts as numbers (R128 to R132) -/

theorem flagByte_decide (c : Prop) [Decidable c] : flagByte (decide c) = Claims.flag c := by
  simp only [flagByte, Claims.flag, decide_eq_true_eq]

theorem flagByte_getLsbD (a : Byte) (n : Nat) :
    flagByte (a.getLsbD n) = Claims.flag (a.toNat / 2 ^ n % 2 = 1) := by
  rw [BitVec.getLsbD, Nat.testBit_eq_decide_div_mod_eq, flagByte_decide]

theorem carryFlag_eq_flag (a b : Byte) : carryFlag a b = Claims.flag (255 < a.toNat + b.toNat) :=
  flagByte_decide _

theorem greaterFlag_eq_flag (a b : Byte) : greaterFlag a b = Claims.flag (a.toNat > b.toNat) :=
  flagByte_decide _

theorem shrFlag_eq_flag (a : Byte) : shrFlag a = Claims.flag (a.toNat % 2 = 1) := by
  rw [shrFlag_eq, flagByte_getLsbD, pow_zero, Nat.div_one]

theorem shlFlag_eq_flag (a : Byte) : shlFlag a = Claims.flag (a.toNat / 8 % 2 = 1) := by
  rw [shlFlag_eq]
  exact flagByte_getLsbD a 3

theorem ushiftRight_one_eq_ofNat (a : Byte) : a >>> 1 = BitVec.ofNat 8 (a.toNat / 2) := by
  refine BitVec.eq_of_toNat_eq ?_
  rw [BitVec.toNat_ushiftRight, Nat.shiftRight_one, BitVec.toNat_ofNat]
  omega

theorem shiftLeft_one_eq_ofNat (a : Byte) : a <<< 1 = BitVec.ofNat 8 (a.toNat * 2) := by
  refine BitVec.eq_of_toNat_eq ?_
  rw [BitVec.toNat_shiftLeft, Nat.shiftLeft_eq, BitVec.toNat_ofNat, pow_one]

/-! ### Instructions that answer a result (R121)

The value b the model computes and the value c a statement gives may be written differently. -/

section
variable {i : Instr} {s : State} {x : Reg} {b c f g : Byte}

theorem exists_next_of_result (h : exec i s = .next (s.result x b)) (hb : b = c) :
    ∃ t, exec i s = .next t ∧ (∀ r, t.getV r = if r = x then c else s.getV r) ∧
      t = { s with v := t.v, pc := s.pc + 2 } := by
  subst hb
  exact ⟨_, h, fun r => State.getV_result s x r b, rfl⟩

theorem exists_next_of_resultFlag (h : exec i s = .next (s.resultFlag x b f)) (hb : b = c)
    (hf : f = g) :
    ∃ t, exec i s = .next t ∧
      (∀ r, t.getV r = if r = 15 then g else if r = x then c else s.getV r) ∧
      t = { s with v := t.v, pc := s.pc + 2 } := by
  subst hb hf
  exact ⟨_, h, fun r => State.getV_resultFlag s x r b f, rfl⟩

end

end Sys2Proof.Machine

namespace Sys2Proof.Proofs

open Sys2Proof.Machine

/-- Settles O34. -/
theorem loadsWriteTheirRegister : Obligations.LoadsWriteTheirRegister := fun x y kk _ =>
  ⟨decodeWord_ofNat rfl (toNat_packXKK 6#4 x kk), decodeWord_ofNat rfl (toNat_packXYN 8#4 x y 0#4),
    exists_next_of_result rfl rfl, exists_next_of_result rfl rfl⟩

/-- Settles O35: the sum mod 2^8 is the addition of bytes. -/
theorem addByteWrapsWithoutFlag : Obligations.AddByteWrapsWithoutFlag := fun x kk _ =>
  ⟨decodeWord_ofNat rfl (toNat_packXKK 7#4 x kk), exists_next_of_result rfl (sumByte_eq _ _)⟩

/-- Settles O36. -/
theorem logicWritesNoFlag : Obligations.LogicWritesNoFlag := fun _ _ _ =>
  ⟨decodeWord_group8 (n := 1#4) rfl rfl, decodeWord_group8 (n := 2#4) rfl rfl,
    decodeWord_group8 (n := 3#4) rfl rfl, exists_next_of_result rfl rfl,
    exists_next_of_result rfl rfl, exists_next_of_result rfl rfl⟩

/-- Settles O37: `State.getV_resultFlag` has the flag win where x = F. -/
theorem addSetsTheCarry : Obligations.AddSetsTheCarry := fun _ _ _ =>
  exists_next_of_resultFlag rfl (sumByte_eq _ _) (carryFlag_eq_flag _ _)

/-- Settles O38: SUBN is SUB with the operands swapped, in the difference and in the flag. -/
theorem subtractionsSetAStrictFlag : Obligations.SubtractionsSetAStrictFlag := fun _ _ _ =>
  ⟨exists_next_of_resultFlag rfl (diffByte_eq _ _) (greaterFlag_eq_flag _ _),
    exists_next_of_resultFlag rfl (diffByte_eq _ _) (greaterFlag_eq_flag _ _)⟩

/-- Settles O39: the flags are bits 0 and 3 of the old value, each a remainder of its quotient. -/
theorem shiftsSetTheirBit : Obligations.ShiftsSetTheirBit := fun _ _ _ =>
  ⟨exists_next_of_resultFlag rfl (ushiftRight_one_eq_ofNat _) (shrFlag_eq_flag _),
    exists_next_of_resultFlag rfl (shiftLeft_one_eq_ofNat _) (shlFlag_eq_flag _)⟩

/-- Settles O40: the draw leaves the registers, so the result is written as over the old state. -/
theorem rndMasksOneFreshDraw : Obligations.RndMasksOneFreshDraw := by
  intro x kk s
  have hregs (r : Reg) : (s.afterDraw.result x (s.rndByte &&& kk)).getV r =
      if r = x then Config.randomByte s.draws &&& kk else s.getV r :=
    State.getV_result s.afterDraw x r _
  refine ⟨_, rfl, hregs, ?_, rfl⟩
  rintro rfl
  rw [hregs, if_pos rfl]
  exact BitVec.and_zero

end Sys2Proof.Proofs

/-! ## Index register and memory (43_index_memory.md) -/

namespace Sys2Proof

/-- The group F words `Fxkk` as the spec writes them, the fixed digits first in the sum. -/
theorem decodeWord_groupF {i : Instr} {x : Reg} {kk : Byte} (hwf : i.wf = true)
    (he : encode i = packXKK 0xF#4 x kk) :
    decodeWord (BitVec.ofNat 16 (0xF000 + kk.toNat + 0x100 * x.val)) = .ok i := by
  refine decodeWord_ofNat hwf ?_
  rw [he, toNat_packXKK, BitVec.toNat_ofNat]
  omega

end Sys2Proof

namespace Sys2Proof.Machine

/-! ### The bytes of a bounded store (R143, R144) -/

/-- A bounded store puts its byte j at `base + j`, where that is an address. -/
theorem Memory.read_storeBounded_add (m : Memory) {bs : List Byte} {base j : Nat}
    (hj : j < bs.length) (h : base + j < memSize) :
    (m.storeBounded base bs).read (base + j) = bs[j] := by
  rw [Memory.read_storeBounded, if_pos ⟨Nat.le_add_right base j, h⟩, Nat.add_sub_cancel_left,
    List.getD_eq_getElem _ _ hj]

/-- R143: the digits' addresses are three different ones, so a chain of tests says which byte is read. -/
theorem Memory.read_storeBounded_bcdDigits (m : Memory) (base a : Nat) (b : Byte) :
    (m.storeBounded base (bcdDigits b)).read a =
      if 4096 ≤ a then m.read a
      else if a = base then BitVec.ofNat 8 (b.toNat / 100)
      else if a = base + 1 then BitVec.ofNat 8 (b.toNat / 10 % 10)
      else if a = base + 2 then BitVec.ofNat 8 (b.toNat % 10)
      else m.read a := by
  have hlen : (bcdDigits b).length = 3 := rfl
  have hsize : memSize = 4096 := rfl
  split_ifs with hend hundreds tens ones
  · exact Memory.read_storeBounded_of_not_stored m (by omega)
  · subst hundreds
    exact m.read_storeBounded_add (j := 0) (by omega) (by omega)
  · subst tens
    exact m.read_storeBounded_add (by omega) (by omega)
  · subst ones
    exact m.read_storeBounded_add (by omega) (by omega)
  · exact Memory.read_storeBounded_of_not_stored m (by omega)

/-! ### The sum of ADD I (R141) -/

theorem toNat_add_byteWord (w : Word) (b : Byte) :
    (w + byteWord b).toNat = (w.toNat + b.toNat) % 2 ^ 16 := by
  rw [BitVec.toNat_add, toNat_byteWord]

end Sys2Proof.Machine

namespace Sys2Proof.Proofs

open Sys2Proof.Machine

/-- Settles O41. -/
theorem indexLoadsAndAdds : Obligations.IndexLoadsAndAdds := by
  intro nnn x s
  have hI : (addrWord nnn).toNat = nnn.toNat := toNat_addrWord nnn
  refine ⟨decodeWord_ofNat rfl (toNat_packNNN 0xA#4 nnn), decodeWord_groupF (kk := 0x1E#8) rfl rfl,
    ⟨_, rfl, hI, ?_, rfl⟩, ⟨_, rfl, toNat_add_byteWord s.i (s.getV x), rfl⟩⟩
  exact hI.trans_le (Nat.le_of_lt_succ nnn.isLt)

/-- Settles O42: 5 times a byte fits in I, so each range of Vx has its range of I. -/
theorem glyphAddressIsFiveTimesVx : Obligations.GlyphAddressIsFiveTimesVx := by
  intro x s
  have hI : (s.setI (glyphAddr (s.getV x))).advance.i.toNat = 5 * (s.getV x).toNat :=
    toNat_glyphAddr (s.getV x)
  refine ⟨decodeWord_groupF (kk := 0x29#8) rfl rfl, _, rfl, ?_, ?_, ?_, ?_, rfl⟩ <;> omega

/-- Settles O43. -/
theorem bcdStoresThreeDigits : Obligations.BcdStoresThreeDigits := fun x s =>
  ⟨decodeWord_groupF (kk := 0x33#8) rfl rfl, _, rfl,
    fun a => s.mem.read_storeBounded_bcdDigits s.base a (s.getV x), rfl⟩

/-- Settles O44: the bytes stored are the register file as a list, 16 of them for every x. -/
theorem blockStoreWritesAllRegisters : Obligations.BlockStoreWritesAllRegisters := by
  intro x s
  have hlen : s.v.toList.length = 16 := s.v.length_toList
  have hsize : memSize = 4096 := rfl
  refine ⟨_, rfl, fun r h => ?_, fun a ha => ?_, rfl, fun _ => rfl⟩
  · exact s.mem.read_storeBounded_add (hlen.symm ▸ r.isLt) h
  · exact Memory.read_storeBounded_of_not_stored s.mem (by omega)

/-- Settles O45. -/
theorem blockLoadReadsAllRegisters : Obligations.BlockLoadReadsAllRegisters :=
  fun _ s => ⟨_, rfl, getElem_loadedRegs s, rfl, fun _ => rfl⟩

end Sys2Proof.Proofs

/-! ## Display (44_display.md) -/

namespace Sys2Proof

/-! ### The bytes of a word of the format `g x y n` (R55, R71) -/

theorem firstByte_packXYN (g : Nibble) (x y : Reg) (n : Nibble) :
    firstByte (packXYN g x y n) = BitVec.ofNat 8 (0x10 * g.toNat + x.val) := by
  have := g.isLt
  have := n.isLt
  refine BitVec.eq_of_toNat_eq ?_
  rw [toNat_firstByte, toNat_packXYN, BitVec.toNat_ofNat]
  omega

theorem secondByte_packXYN (g : Nibble) (x y : Reg) (n : Nibble) :
    secondByte (packXYN g x y n) = BitVec.ofNat 8 (0x10 * y.val + n.toNat) := by
  refine BitVec.eq_of_toNat_eq ?_
  rw [toNat_secondByte, toNat_packXYN, BitVec.toNat_ofNat]
  omega

end Sys2Proof

namespace Sys2Proof.Machine

/-! ### The placed sprite row (R164) -/

section
variable (b : Byte) {x : Nat}

/-- The rotation of a placed byte as two shifts, one part for each edge of the row. -/
theorem place_eq_or (hx : x < 64) :
    place b x = (b.zeroExtend 64 <<< 56) >>> x ||| b.zeroExtend 64 <<< (120 - x) := by
  have hsum : 56 + (64 - x) = 120 - x := by omega
  rw [place, BitVec.rotateRight_eq_rotateRightAux_of_lt hx, BitVec.rotateRightAux,
    ← BitVec.shiftLeft_add, hsum]

/-- A byte at the top of a row loses no bit to the left, so a right shift takes the left shift back. -/
theorem zeroExtend_shiftLeft_ushiftRight_of_le (hx : x ≤ 56) :
    (b.zeroExtend 64 <<< 56) >>> x = b.zeroExtend 64 <<< (56 - x) := by
  refine BitVec.eq_of_getLsbD_eq fun j hj => ?_
  have hsub : x + j - 56 = j - (56 - x) := by omega
  have hlt : x + j < 56 ↔ j < 56 - x := by omega
  by_cases hbyte : x + j < 64
  · simp [hj, hsub, hlt, hbyte]
  · have : 8 ≤ j - (56 - x) := by omega
    simp [hbyte, this]

theorem zeroExtend_shiftLeft_ushiftRight_of_ge (hx : 56 ≤ x) :
    (b.zeroExtend 64 <<< 56) >>> x = b.zeroExtend 64 >>> (x - 56) := by
  refine BitVec.eq_of_getLsbD_eq fun j hj => ?_
  have hsub : x + j - 56 = x - 56 + j := by omega
  have hge : ¬x + j < 56 := by omega
  by_cases hbyte : x + j < 64
  · have : x - 56 + j < 64 := by omega
    simp [hsub, hge, hbyte, this]
  · have : 8 ≤ x - 56 + j := by omega
    simp [hbyte, this]

/-- Up to column 56 no part of the byte goes around the edge. -/
theorem place_of_le (hx : x ≤ 56) : place b x = b.zeroExtend 64 <<< (56 - x) := by
  have hout : b.zeroExtend 64 <<< (120 - x) = 0#64 := BitVec.shiftLeft_eq_zero (by omega)
  rw [place_eq_or b (by omega), zeroExtend_shiftLeft_ushiftRight_of_le b hx, hout, BitVec.or_zero]

end

/-! ### Pixels (R33, R161) and flags -/

theorem flagByte_eq_flag {b : Bool} {c : Prop} [Decidable c] (h : b = true ↔ c) :
    flagByte b = Claims.flag c := by
  simp only [flagByte, Claims.flag, h]

/-- A row is determined by its 64 columns. -/
theorem row_ext {f g : Row} (h : ∀ c : Fin 64, f.getLsbD (63 - c.val) = g.getLsbD (63 - c.val)) :
    f = g := by
  refine BitVec.eq_of_getLsbD_eq fun j hj => ?_
  have hj' : 63 - (63 - j) = j := by omega
  simpa only [hj'] using h ⟨63 - j, by omega⟩

theorem row_ne_zero_iff {f : Row} : f ≠ 0 ↔ ∃ c : Fin 64, f.getLsbD (63 - c.val) = true := by
  refine ⟨fun h => ?_, ?_⟩
  · by_contra hdark
    refine h (row_ext fun c => ?_)
    rw [eq_false_of_ne_true fun hc => hdark ⟨c, hc⟩]
    exact BitVec.getLsbD_zero.symm
  · rintro ⟨c, hc⟩ rfl
    simp at hc

/-- A framebuffer is determined by its pixels. -/
theorem State.fb_ext {s t : State} (h : ∀ r c, t.pixel r c = s.pixel r c) : t.fb = s.fb :=
  Vector.ext fun r hr => row_ext (h ⟨r, hr⟩)

/-! ### What a DRW does to each row (R164 to R166) -/

/-- The sprite byte that a DRW with the vertical coordinate cy draws on row r, counted from 0. -/
def spriteIndex (cy : Byte) (r : Fin 32) : Nat := (r.val + 256 - cy.toNat) % 32

/-- The mask by which a DRW changes row r: the placed sprite byte of that row, if it has one. -/
def spriteMask (x y : Reg) (n : Nibble) (s : State) (r : Fin 32) : Row :=
  let k := spriteIndex (s.getV y) r
  if k < n.toNat then place (s.mem.read (s.base + k)) (spriteColumn (s.getV x)) else 0

/-- Row k of a sprite goes to row r exactly when k is the index of r: no two of its at most 32 rows go
to the same row of the framebuffer. -/
theorem spriteRow_eq_iff (cy : Byte) (r : Fin 32) {k : Nat} (hk : k < 32) :
    spriteRow cy.toNat k = r ↔ k = spriteIndex cy r := by
  have := cy.isLt
  have := r.isLt
  simp only [Fin.ext_iff, spriteRow, spriteIndex]
  omega

theorem spriteRow_spriteIndex (cy : Byte) (r : Fin 32) :
    spriteRow cy.toNat (spriteIndex cy r) = r :=
  (spriteRow_eq_iff cy r (Nat.mod_lt _ (by decide))).mpr rfl

/-- The sprite column of `getLsbD_place` and that of `Claims.spriteLit`. -/
theorem spriteColOf_spriteColumn (b : Byte) (c : Fin 64) :
    spriteColOf (spriteColumn b) c.val = (c.val + 256 - b.toNat) % 64 := by
  have := b.isLt
  rw [spriteColOf, spriteColumn]
  omega

section
variable (x y : Reg) (n : Nibble) (s : State) (r : Fin 32)

theorem spriteMask_of_lt (h : spriteIndex (s.getV y) r < n.toNat) : spriteMask x y n s r =
    place (s.mem.read (s.base + spriteIndex (s.getV y) r)) (spriteColumn (s.getV x)) := if_pos h

theorem spriteMask_of_not_lt (h : ¬spriteIndex (s.getV y) r < n.toNat) :
    spriteMask x y n s r = 0 := if_neg h

theorem spriteMask_spriteRow {k : Nat} (hk : k < n.toNat) :
    spriteMask x y n s (spriteRow (s.getV y).toNat k) =
      place (s.mem.read (s.base + k)) (spriteColumn (s.getV x)) := by
  have hn := n.isLt
  have hindex := (spriteRow_eq_iff (s.getV y) _ (show k < 32 by omega)).mp rfl
  rw [spriteMask_of_lt, ← hindex]
  rwa [← hindex]

theorem getLsbD_spriteMask (c : Fin 64) :
    (spriteMask x y n s r).getLsbD (63 - c.val) = Claims.spriteLit x y n s r c := by
  show _ = (decide (spriteIndex (s.getV y) r < n.toNat) && _ && _)
  by_cases hk : spriteIndex (s.getV y) r < n.toNat
  · rw [spriteMask_of_lt x y n s r hk, getLsbD_place _ (spriteColumn_lt _) c.isLt,
      spriteColOf_spriteColumn, decide_eq_true hk, Bool.true_and]
    rfl
  · rw [spriteMask_of_not_lt x y n s r hk, decide_eq_false hk, Bool.false_and, Bool.false_and]
    exact BitVec.getLsbD_zero

/-- What the row loop makes of a state's sprite bytes: the sprite's rows are drawn, the others kept, and
the flag says whether a lit pixel goes dark on a drawn row (R165). -/
theorem drawnBy_spec :
    (∀ k < n.toNat, (drawnBy x y n s).1[(spriteRow (s.getV y).toNat k).val] =
      s.fb[(spriteRow (s.getV y).toNat k).val] ^^^
        spriteMask x y n s (spriteRow (s.getV y).toNat k)) ∧
    (∀ r : Fin 32, (∀ k < n.toNat, spriteRow (s.getV y).toNat k ≠ r) →
      (drawnBy x y n s).1[r.val] = s.fb[r.val]) ∧
    ((drawnBy x y n s).2 = true ↔ ∃ k < n.toNat, s.fb[(spriteRow (s.getV y).toNat k).val] &&&
      spriteMask x y n s (spriteRow (s.getV y).toNat k) ≠ 0) := by
  have hn := n.isLt
  have hlen := s.mem.length_readBytes s.base n.toNat
  obtain ⟨hdrawn, hkept, hhit⟩ := drawRows_spec (spriteColumn (s.getV x)) (s.getV y).toNat
    (s.mem.readBytes s.base n.toNat) 0 s.fb false (by omega)
  simp only [Nat.zero_add, hlen, Memory.getElem_readBytes, collides_iff, Bool.false_eq_true,
    false_or] at hdrawn hkept hhit
  refine ⟨fun k hk => ?_, hkept, hhit.trans (exists_congr fun k => ?_)⟩
  · rw [spriteMask_spriteRow x y n s hk]
    exact hdrawn k hk
  · refine exists_prop.trans (and_congr_right fun hk => ?_)
    rw [spriteMask_spriteRow x y n s hk]

theorem getElem_drawnBy : (drawnBy x y n s).1[r.val] = s.fb[r.val] ^^^ spriteMask x y n s r := by
  have hn := n.isLt
  obtain ⟨hdrawn, hkept, -⟩ := drawnBy_spec x y n s
  by_cases hk : spriteIndex (s.getV y) r < n.toNat
  · simpa only [spriteRow_spriteIndex] using hdrawn _ hk
  · rw [spriteMask_of_not_lt x y n s r hk]
    refine (hkept r fun k hkn hr => hk ?_).trans BitVec.xor_zero.symm
    rwa [← (spriteRow_eq_iff _ r (by omega)).mp hr]

/-- A collision is one of some row, drawn or not, since the mask of the other rows is 0. -/
theorem drawnBy_collides_iff :
    (drawnBy x y n s).2 = true ↔ ∃ r : Fin 32, s.fb[r.val] &&& spriteMask x y n s r ≠ 0 := by
  obtain ⟨-, -, hhit⟩ := drawnBy_spec x y n s
  refine hhit.trans ⟨fun ⟨k, _, hne⟩ => ⟨_, hne⟩, fun ⟨r, hne⟩ => ?_⟩
  by_cases hk : spriteIndex (s.getV y) r < n.toNat
  · exact ⟨_, hk, by simpa only [spriteRow_spriteIndex] using hne⟩
  · rw [spriteMask_of_not_lt x y n s r hk] at hne
    exact absurd BitVec.and_zero hne

/-! ### DRW by its pixels -/

theorem drawnBy_pixel (c : Fin 64) :
    (drawnBy x y n s).1[r.val].getLsbD (63 - c.val) =
      (s.pixel r c ^^ Claims.spriteLit x y n s r c) := by
  rw [getElem_drawnBy, BitVec.getLsbD_xor, getLsbD_spriteMask, State.pixel]

theorem drawnBy_flag : flagByte (drawnBy x y n s).2 =
    Claims.flag (∃ r c, s.pixel r c = true ∧ Claims.spriteLit x y n s r c = true) := by
  refine flagByte_eq_flag ((drawnBy_collides_iff x y n s).trans ?_)
  simp only [row_ne_zero_iff, BitVec.getLsbD_and, getLsbD_spriteMask, Bool.and_eq_true, State.pixel]

end

section
variable {x y : Reg} {n : Nibble} {s t : State}

theorem exec_drw_inMemory (h : n.toNat = 0 ∨ s.base + n.toNat - 1 < 4096) :
    exec (.drw x y n) s = .next ((s.setFb (drawnBy x y n s).1).setV flagReg
      (flagByte (drawnBy x y n s).2)).advance := by
  rcases exec_drw_cases x y n s with ⟨-, e⟩ | ⟨hout, -⟩
  · exact e
  · omega

theorem exec_drw_beyondMemory (h0 : 0 < n.toNat) (h : 4096 ≤ s.base + n.toNat - 1) :
    exec (.drw x y n) s = .next (s.raiseFrom (.drw x y n) .memoryOutOfBounds) := by
  rcases exec_drw_cases x y n s with ⟨hin, -⟩ | ⟨-, e⟩
  · exact absurd ⟨h0, h⟩ hin
  · exact e

/-- Where a sprite lies depends on I, on its bytes and on its coordinates only. -/
theorem spriteLit_congr (hi : t.i = s.i) (hmem : t.mem = s.mem) (hx : t.getV x = s.getV x)
    (hy : t.getV y = s.getV y) : Claims.spriteLit x y n t = Claims.spriteLit x y n s := by
  funext r c
  rw [Claims.spriteLit, hi, hmem, hx, hy, Claims.spriteLit]

end

theorem execCls_pixel (s : State) (r : Fin 32) (c : Fin 64) :
    (s.setFb (Vector.replicate 32 0)).advance.pixel r c = false := by
  simp [State.pixel]

end Sys2Proof.Machine

namespace Sys2Proof.Proofs

open Sys2Proof.Machine

/-- Settles O47: row by row the framebuffer is changed by `spriteMask`, whose columns are the sprite's. -/
theorem drwFlipsExactlyTheSpritePixels : Obligations.DrwFlipsExactlyTheSpritePixels := by
  intro x y n s h
  refine ⟨_, exec_drw_inMemory h, drawnBy_pixel x y n s, fun q => ?_, rfl⟩
  rw [State.advance_getV, State.getV_setV, State.setFb_getV, drawnBy_flag]
  rfl

/-- Settles O49. -/
theorem placementHasThreeCases : Obligations.PlacementHasThreeCases := by
  refine fun b x hx => ⟨fun hlt => place_of_le b hlt.le, ?_, fun hgt => ?_⟩
  · rintro rfl
    simpa only [Nat.sub_self, BitVec.shiftLeft_zero] using place_of_le b le_rfl
  · rw [place_eq_or b hx, zeroExtend_shiftLeft_ushiftRight_of_ge b hgt.le]

/-- Settles O50: the model's test is the source's. -/
theorem collisionIsAClearedPixel : Obligations.CollisionIsAClearedPixel := fun old m =>
  ⟨bne_iff_ne.symm.trans (collides_iff old m), collides_iff old m⟩

/-- Settles O51: the first draw leaves what places the sprite, so the second flips the same pixels; of
those it finds lit exactly the ones that were dark at first. -/
theorem drawingTwiceRestores : Obligations.DrawingTwiceRestores := by
  intro x y n s t hx hy h ht
  obtain ⟨t', ht', hpix, hregs, hframe⟩ := drwFlipsExactlyTheSpritePixels x y n s h
  obtain rfl : t' = t := Host.Outcome.next.inj (ht'.symm.trans ht)
  have hi : t'.i = s.i := by rw [hframe]
  have hlit : Claims.spriteLit x y n t' = Claims.spriteLit x y n s :=
    spriteLit_congr hi (by rw [hframe]) (by rw [hregs, if_neg hx]) (by rw [hregs, if_neg hy])
  obtain ⟨u, hu, hpix', hregs', -⟩ := drwFlipsExactlyTheSpritePixels x y n t'
    (by rwa [State.base, hi])
  refine ⟨u, hu, State.fb_ext fun r c => ?_, ?_⟩
  · rw [hpix', hpix, hlit, Bool.xor_assoc, Bool.xor_self, Bool.xor_false]
  · have hdark (r : Fin 32) (c : Fin 64) :
        (t'.pixel r c = true ∧ Claims.spriteLit x y n s r c = true) ↔
          (s.pixel r c = false ∧ Claims.spriteLit x y n s r c = true) :=
      and_congr_left fun hl => by rw [hpix, hl, Bool.xor_true, Bool.not_eq_true']
    rw [hregs', if_pos rfl]
    simp only [hlit, hdark]

/-- Settles O52: no pixel is lit after the CLS, which leaves what places the sprite. -/
theorem drawingAfterClsShowsTheSprite : Obligations.DrawingAfterClsShowsTheSprite := by
  intro x y n s t h ht
  obtain rfl := Host.Outcome.next.inj ht
  have hlit := spriteLit_congr (x := x) (y := y) (n := n) (s := s)
    (t := (s.setFb (Vector.replicate 32 0)).advance) rfl rfl rfl rfl
  obtain ⟨u, hu, hpix, hregs, -⟩ := drwFlipsExactlyTheSpritePixels x y n
    (s.setFb (Vector.replicate 32 0)).advance h
  refine ⟨u, hu, fun r c => ?_, ?_⟩
  · rw [hpix, execCls_pixel, hlit, Bool.false_xor]
  · rw [hregs, if_pos rfl]
    refine if_neg ?_
    rintro ⟨r, c, hlight, -⟩
    rw [execCls_pixel] at hlight
    cases hlight

/-- Settles O46. -/
theorem clsClearsEveryPixel : Obligations.ClsClearsEveryPixel :=
  fun s => ⟨rfl, _, rfl, execCls_pixel s, rfl⟩

/-- Settles O48: the bytes in the record are those of the word Dxyn. -/
theorem drwBeyondMemoryHalts : Obligations.DrwBeyondMemoryHalts := by
  intro x y n s h0 h
  rw [exec_drw_beyondMemory h0 h, State.raiseFrom, encode, firstByte_packXYN, secondByte_packXYN]
  rfl

end Sys2Proof.Proofs

/-! ## Keypad and timers (45_keypad_timers.md) -/

namespace Sys2Proof.Machine

section
variable {s : State}

/-! ### The test of one key flag (R180, R181) -/

theorem State.keyDown_keyIndex_iff (b : Byte) :
    s.keyDown (keyIndex b) = true ↔ s.key[b.toNat % 16]'(Nat.mod_lt _ (by decide)) ≠ 0 := by
  simp only [State.keyDown, bne_iff_ne, val_keyIndex]

/-! ### The scan of the 16 flags (R182) -/

theorem State.firstPressed_key_none (h : firstPressed s.key.toList 0 = none) (k : Key) :
    s.key[k.val] = 0 :=
  firstPressed_none h _ (Vector.mem_toList_iff.mpr (Vector.getElem_mem k.isLt))

/-- The index the scan finds is that of a key, the lowest pressed one. -/
theorem State.firstPressed_key_some {n : Nat} (h : firstPressed s.key.toList 0 = some n) :
    ∃ k : Key, k.val = n ∧ s.key[k.val] ≠ 0 ∧ ∀ j : Key, j < k → s.key[j.val] = 0 := by
  obtain ⟨hn, -, hpressed, hlower⟩ := firstPressed_some h
  rw [Vector.length_toList] at hn
  exact ⟨⟨n, hn⟩, rfl, hpressed, fun j hj => hlower j.val hj⟩

theorem exec_ldVxK_wait (x : Reg) (h : ∀ k : Key, s.key[k.val] = 0) :
    exec (.ldVxK x) s = .next s := by
  rcases exec_ldVxK_cases x s with ⟨n, hn, -⟩ | ⟨-, e⟩
  · obtain ⟨k, -, hpressed, -⟩ := State.firstPressed_key_some hn
    exact absurd (h k) hpressed
  · exact e

theorem exec_ldVxK_lowest (x : Reg) {k : Key} (hk : s.key[k.val] ≠ 0)
    (hlower : ∀ j : Key, j < k → s.key[j.val] = 0) :
    exec (.ldVxK x) s = .next (s.result x (BitVec.ofNat 8 k.val)) := by
  rcases exec_ldVxK_cases x s with ⟨n, hn, e⟩ | ⟨hnone, -⟩
  · obtain ⟨m, rfl, hm, hmlower⟩ := State.firstPressed_key_some hn
    have hmk : m = k :=
      le_antisymm (not_lt.mp fun hlt => hk (hmlower k hlt)) (not_lt.mp fun hlt => hm (hlower m hlt))
    rw [← hmk]
    exact e
  · exact absurd (State.firstPressed_key_none hnone k) hk

/-! ### A tick's decrement after its instruction (R95, R183 to R185) -/

/-- A tick whose instruction leaves the block Running: the registers are as the instruction left
them, and the timers one below. -/
theorem exists_step_of_fetches {u : State} {i : Instr} {early late : List Key}
    (ht : s.Ticks early late) (hf : s.Fetches i) (he : exec i (s.keysLand early) = .next u)
    (hstatus : u.status = (s.keysLand early).status) :
    ∃ t, step s = .next t ∧ (∀ r, t.getV r = u.getV r) ∧ t.dt.toNat = u.dt.toNat - 1 ∧
      t.st.toNat = u.st.toNat - 1 := by
  have hu : executeOne (s.keysLand early) = .next u :=
    (executeOne_of_fetches ((State.fetches_keysLand early).mpr hf)).trans he
  have hr : u.status = .running := by rw [hstatus, State.keysLand_status, ht.1]
  refine ⟨u.endTick late, step_eq_endTick ht hu, ?_⟩
  rw [State.endTick_running hr]
  exact ⟨fun _ => rfl, toNat_timerStep u.dt, toNat_timerStep u.st⟩

end

end Sys2Proof.Machine

namespace Sys2Proof.Proofs

open Sys2Proof.Machine

/-- Settles O9. -/
theorem keyDownsSetTheirFlags : Obligations.KeyDownsSetTheirFlags :=
  fun s early => ⟨s.getElem_keysLand early, s.keysLand_frame early⟩

/-- Settles O54: the scan finds nothing exactly when no flag is set, and else the lowest key. -/
theorem waitForKeyTakesTheLowest : Obligations.WaitForKeyTakesTheLowest := fun x _ =>
  ⟨exec_ldVxK_wait x, fun _ hk hlower =>
    exists_next_of_result (exec_ldVxK_lowest x hk hlower) rfl⟩

/-- Settles O53. -/
theorem skipsOnAKey : Obligations.SkipsOnAKey := by
  intro x s
  have hdown := State.keyDown_keyIndex_iff (s := s) (s.getV x)
  refine ⟨congrArg _ (State.skipIf_of_iff s _ hdown),
    congrArg _ (State.skipIf_of_iff_not s _ ?_)⟩
  rw [Bool.not_eq_true', ← Bool.not_eq_true, hdown]

/-- Settles O55: the early key-downs leave DT and the registers, so the byte an instruction copies
is that of the state before the tick. -/
theorem timerLoadsAndStores : Obligations.TimerLoadsAndStores := by
  intro x s
  refine ⟨decodeWord_groupF (kk := 0x07#8) rfl rfl, decodeWord_groupF (kk := 0x15#8) rfl rfl,
    decodeWord_groupF (kk := 0x18#8) rfl rfl, exists_next_of_result rfl rfl, rfl, rfl,
    fun early late ht => ⟨fun hf => ?_, fun hf => ?_, fun hf => ?_⟩⟩
  · obtain ⟨t, hstep, hregs, hdt, -⟩ := exists_step_of_fetches ht hf rfl rfl
    refine ⟨t, hstep, ?_, by simpa using hdt⟩
    rw [hregs, State.advance_getV, State.getV_setV, if_pos rfl, State.keysLand_dt]
  · obtain ⟨t, hstep, -, hdt, -⟩ := exists_step_of_fetches ht hf rfl rfl
    exact ⟨t, hstep, by simpa using hdt⟩
  · obtain ⟨t, hstep, -, -, hst⟩ := exists_step_of_fetches ht hf rfl rfl
    exact ⟨t, hstep, by simpa using hst⟩

end Sys2Proof.Proofs

/-! ## Exceptions (60_exceptions.md) -/

namespace Sys2Proof.Machine

open Sys2Proof.Claims

/-! ### What an error is: its cause and its record (R200 to R206) -/

/-- The condition under which a tick from `s` raises an error of this kind: its own check fails and
the earlier ones of R208 pass. -/
def State.ErrorCause (s : State) : ErrKind → Prop
  | .programCounterOutOfBounds => 4094 < s.pc.toNat
  | .invalidInstruction => s.pc.toNat ≤ 4094 ∧ InvalidWord (opcodeAt s)
  | .stackOverflow => (∃ nnn, s.Fetches (.call nnn)) ∧ 32 ≤ s.sp.toNat
  | .memoryOutOfBounds =>
    ∃ x y n, s.Fetches (.drw x y n) ∧ 0 < n.toNat ∧ 4096 ≤ s.i.toNat + n.toNat - 1

/-- The bytes in the record of an error of this kind (R206): none where the fetch failed. -/
def State.recordBytes (s : State) (kind : ErrKind) : Option (Byte × Byte) :=
  if kind = .programCounterOutOfBounds then none
  else some (s.mem.read s.pc.toNat, s.mem.read (s.pc.toNat + 1))

section
variable {s t : State}

/-- Key-downs touch nothing a check reads. -/
@[simp] theorem State.errorCause_keysLand {kind : ErrKind} (ks : List Key) :
    (s.keysLand ks).ErrorCause kind ↔ s.ErrorCause kind := by
  cases kind <;> simp [State.ErrorCause, State.fetches_keysLand, opcodeAt]

@[simp] theorem State.recordBytes_keysLand (kind : ErrKind) (ks : List Key) :
    (s.keysLand ks).recordBytes kind = s.recordBytes kind := by
  simp [State.recordBytes]

/-- The instruction that was fetched is the word at pc. -/
theorem State.encode_of_fetches {i : Instr} (h : s.Fetches i) : encode i = opcodeAt s := by
  obtain ⟨-, hd⟩ := h
  exact (Proofs.decodedWordEncodesBack _ _ hd).2

/-- An error raised inside a fetched instruction records the bytes at pc (log entry 9). -/
theorem State.raiseFrom_of_fetches {i : Instr} (h : s.Fetches i) (kind : ErrKind) :
    s.raiseFrom i kind =
      s.raise kind (some (s.mem.read s.pc.toNat, s.mem.read (s.pc.toNat + 1))) := by
  rw [State.raiseFrom, State.encode_of_fetches h, opcodeAt, firstByte_opcodeOf,
    secondByte_opcodeOf]

/-! ### Where an error can come from -/

/-- Only a CALL at capacity and a DRW beyond memory raise an error (R203, R204). -/
theorem exec_raises {i : Instr} (h : exec i s = .next t) (hr : t.status ≠ s.status) :
    (∃ nnn, i = .call nnn ∧ 32 ≤ s.sp.toNat ∧ t = s.raiseFrom i .stackOverflow) ∨
    ∃ x y n, i = .drw x y n ∧ (0 < n.toNat ∧ 4096 ≤ s.i.toNat + n.toNat - 1) ∧
      t = s.raiseFrom i .memoryOutOfBounds := by
  cases i with
  | call nnn =>
    rcases exec_call_cases nnn s with ⟨_, e⟩ | ⟨hsp, e⟩ <;> cases e.symm.trans h
    · exact absurd rfl hr
    · exact .inl ⟨nnn, rfl, hsp, rfl⟩
  | drw x y n =>
    rcases exec_drw_cases x y n s with ⟨_, e⟩ | ⟨hout, e⟩ <;> cases e.symm.trans h
    · exact absurd rfl hr
    · exact .inr ⟨x, y, n, rfl, hout, rfl⟩
  | _ => exact absurd (exec_status h nofun nofun) hr

/-- An execution that changes the status has raised an error that has its cause, and done nothing
else (R205). -/
theorem executeOne_raises (h : executeOne s = .next t) (hr : t.status ≠ s.status) :
    ∃ kind, s.ErrorCause kind ∧ t = s.raise kind (s.recordBytes kind) := by
  rcases executeOne_cases h with ⟨hpc, rfl⟩ | ⟨hpc, hd, rfl⟩ | ⟨i, hf, he⟩
  · exact ⟨.programCounterOutOfBounds, hpc, rfl⟩
  · exact ⟨.invalidInstruction, ⟨hpc, (Proofs.rejectedWordsAreTheInvalidOnes _).mp hd⟩, rfl⟩
  · rcases exec_raises he hr with ⟨nnn, rfl, hsp, rfl⟩ | ⟨x, y, n, rfl, hout, rfl⟩
    · exact ⟨.stackOverflow, ⟨⟨nnn, hf⟩, hsp⟩, State.raiseFrom_of_fetches hf _⟩
    · exact ⟨.memoryOutOfBounds, ⟨x, y, n, hf, hout⟩, State.raiseFrom_of_fetches hf _⟩

/-- A tick that answers a next state has executed and then done the end of its tick (R95). -/
theorem exists_executeOne_of_step {early late : List Key} (ht : s.Ticks early late)
    (h : step s = .next t) :
    ∃ u, executeOne (s.keysLand early) = .next u ∧ t = u.endTick late := by
  rw [step_of_ticks ht] at h
  unfold tick at h
  split at h
  · next u hu => exact ⟨u, hu, (Host.Outcome.next.inj h).symm⟩
  · cases h
  · cases h

/-- A fatal tick: the error has its cause in the state before the tick, and of the tick only its
key-downs have taken effect besides (R96, R98, R205). -/
theorem step_fatal {early late : List Key} (ht : s.Ticks early late) (h : step s = .next t)
    (hr : t.status ≠ .running) :
    ∃ kind, s.ErrorCause kind ∧
      t = ((s.keysLand early).raise kind (s.recordBytes kind)).pressKeys late := by
  obtain ⟨u, hu, rfl⟩ := exists_executeOne_of_step ht h
  rw [State.endTick_status] at hr
  have hraised : u.status ≠ (s.keysLand early).status := by
    rwa [State.keysLand_status, ht.1]
  obtain ⟨kind, hcause, rfl⟩ := executeOne_raises hu hraised
  rw [State.endTick_fatal hr, State.recordBytes_keysLand]
  exact ⟨kind, (State.errorCause_keysLand early).mp hcause, rfl⟩

end

end Sys2Proof.Machine

namespace Sys2Proof.Proofs

open Sys2Proof.Machine

/-- Settles O13: the early key-downs leave pc, so the record's address is that of the state before
the tick. -/
theorem fatalTickIsPrecise : Obligations.FatalTickIsPrecise := by
  intro s t early late ht h hr
  obtain ⟨kind, -, rfl⟩ := step_fatal ht h hr
  refine ⟨kind, ?_⟩
  rw [State.raise, State.keysLand_pc]
  rfl

/-- Settles O14: the record's kind is the one `step_fatal` gives a cause for. -/
theorem eachErrorHasItsCause : Obligations.EachErrorHasItsCause := by
  intro s t early late err ht h herr
  obtain ⟨kind, hcause, rfl⟩ := step_fatal ht h (by simp [herr])
  rw [State.pressKeys_status, State.raise_status] at herr
  obtain rfl := Status.halted.inj herr
  cases kind with
  | programCounterOutOfBounds => exact .inl ⟨rfl, hcause⟩
  | invalidInstruction => exact .inr (.inl ⟨rfl, hcause⟩)
  | stackOverflow => exact .inr (.inr (.inl ⟨rfl, hcause⟩))
  | memoryOutOfBounds => exact .inr (.inr (.inr ⟨rfl, hcause⟩))

end Sys2Proof.Proofs

/-! ## Reset and hazards (70_reset_and_hazards.md) -/

namespace Sys2Proof.Machine

section
variable {s : State}

/-! ### Key-downs at the end of a tick (R96, R238) -/

/-- Only a Running block answers a next state (R36). -/
theorem status_running_of_step {t : State} (h : step s = .next t) : s.status = .running := by
  rcases step_cases h with ⟨hr, -⟩ | ⟨hr, -⟩ | ⟨-, -, -, ⟨hr, -⟩, -⟩ <;> exact hr

/-- The clear at the end of a tick that goes on leaves no trace of the late key-downs. -/
theorem State.endTick_late_of_running (h : s.status = .running) (late : List Key) :
    s.endTick late = s.endTick [] := by
  rw [State.endTick_running h, State.endTick_running h]

/-- With no clear the late key-downs are all that they add to the end of the tick. -/
theorem State.endTick_late_of_fatal (h : s.status ≠ .running) (late : List Key) :
    s.endTick late = (s.endTick []).pressKeys late := by
  rw [State.endTick_fatal h, State.endTick_fatal h]
  rfl

end

/-! ### The memory the boot leaves (R232) -/

/-- A store that fits below the memory's end reads as its bytes where they lie. -/
theorem Memory.read_storeBounded_of_fits (m : Memory) {bs : List Byte} {base : Nat}
    (hfit : base + bs.length ≤ 4096) (a : Nat) :
    (m.storeBounded base bs).read a =
      if base ≤ a ∧ a < base + bs.length then bs.getD (a - base) 0 else m.read a := by
  split
  · next ha =>
    obtain ⟨hle, hlt⟩ := ha
    obtain ⟨j, rfl⟩ := Nat.exists_eq_add_of_le hle
    have hj : j < bs.length := by omega
    have hsize : base + j < memSize := show base + j < 4096 by omega
    rw [m.read_storeBounded_add hj hsize, Nat.add_sub_cancel_left, List.getD_eq_getElem _ _ hj]
  · next ha => exact m.read_storeBounded_of_not_stored fun ⟨hle, hlt, _⟩ => ha ⟨hle, hlt⟩

/-- The reset contents are FONT and then zeros (R40). -/
theorem Memory.unlisted_eq_getD_font (a : Nat) :
    Memory.unlisted a = Config.font.toList.getD a 0 := by
  rcases Nat.lt_or_ge a 128 with ha | ha
  · rw [Memory.unlisted_font ⟨a, ha⟩, List.getD_eq_getElem _ _ (by simpa using ha)]
    rfl
  · rw [Memory.unlisted_of_le ha, List.getD_eq_default _ _ (by simpa using ha)]

/-- The memory `boot` makes: the font from address 0, then the ROM from its base. -/
def bootMemory (font : List Byte) (romBase : Nat) (rom : List Byte) : Memory :=
  (State.reset.mem.storeBounded 0 font).storeBounded romBase rom

section
variable {font rom : List Byte} {romBase : Nat}

theorem bootMemory_wf : (bootMemory font romBase rom).wf = true :=
  Memory.wf_storeBounded (Memory.wf_storeBounded Memory.wf_nil _ _) _ _

/-- A font of 128 bytes covers all that is not 0 in the reset contents, so no byte of FONT shows. -/
theorem read_bootMemory (hfont : font.length = 128) (hfit : romBase + rom.length ≤ 4096) (a : Nat) :
    (bootMemory font romBase rom).read a =
      if romBase ≤ a ∧ a < romBase + rom.length then rom.getD (a - romBase) 0
      else font.getD a 0 := by
  have hread : (State.reset.mem.storeBounded 0 font).read a = font.getD a 0 := by
    rw [Memory.read_storeBounded_of_fits _ (by omega), hfont]
    split
    · rfl
    · next ha =>
      have ha : 128 ≤ a := by omega
      rw [List.getD_eq_default _ _ (hfont ▸ ha)]
      exact Memory.unlisted_of_le ha
  rw [bootMemory, Memory.read_storeBounded_of_fits _ hfit, hread]

/-! ### What the boot answers (R231 to R234) -/

/-- The state a boot that is not refused answers. -/
def bootState (font : List Byte) (romBase : Nat) (rom : List Byte) (inputs : List AgentStep) : State :=
  ((State.reset.setMem (bootMemory font romBase rom)).setPc (BitVec.ofNat 16 romBase)).setInputs inputs

/-- A configuration that passes the checks of R233 and R234 is booted. -/
theorem boot_of_fits (inputs : List AgentStep) (hfont : font.length = 128) (hbase : romBase ≤ 4094)
    (hfit : romBase + rom.length ≤ 4096) :
    boot (some font) romBase rom inputs = .next (bootState font romBase rom inputs) := by
  have hbase' : ¬memSize - 2 < romBase := Nat.not_lt.mpr hbase
  have hfit' : ¬memSize < romBase + rom.length := Nat.not_lt.mpr hfit
  simp only [boot, hfont, ne_eq, not_true_eq_false, if_false, hbase', hfit']
  rfl

/-- Reset meets the invariant, and the boot changes of what it speaks of only memory and pc. -/
theorem bootState_inv (inputs : List AgentStep) (hbase : romBase ≤ 4094) :
    (bootState font romBase rom inputs).Inv := by
  have hpc : (BitVec.ofNat 16 romBase).toNat ≤ 0x10FE := by
    rw [BitVec.toNat_ofNat]
    omega
  exact ((State.Inv.reset.setMem bootMemory_wf).setPc hpc).of_frame hpc rfl rfl rfl rfl

end

/-- Two canonical memories that read alike are one list, so writing FONT over itself lists nothing. -/
theorem bootMemory_font : bootMemory Config.font.toList 0x200 [] = State.reset.mem := by
  refine Memory.ext_read bootMemory_wf Memory.wf_nil fun a => ?_
  rw [read_bootMemory (by simp) (by simp), ← Memory.unlisted_eq_getD_font, if_neg]
  · rfl
  · rw [List.length_nil]
    omega

end Sys2Proof.Machine

namespace Sys2Proof.Proofs

open Sys2Proof.Machine

/-- Settles O10: the two schedules run the same instruction from the same state, and the end of the
tick takes the late key-downs as `State.endTick_late_of_running` and `State.endTick_late_of_fatal`
say. -/
theorem lateKeyDownsAreNeverSeen : Obligations.LateKeyDownsAreNeverSeen := by
  intro s t early late rest h
  have hr := status_running_of_step h
  have ht : State.Ticks { s with inputs := .tick early [] :: rest } early [] := ⟨hr, rfl⟩
  obtain ⟨u, hu, rfl⟩ := exists_executeOne_of_step ht h
  have hlate : step { s with inputs := .tick early late :: rest } = .next (u.endTick late) :=
    step_eq_endTick ⟨hr, rfl⟩ hu
  rw [State.endTick_status, hlate]
  exact ⟨fun hrun => congrArg _ (State.endTick_late_of_running hrun late),
    fun hfatal => congrArg _ (State.endTick_late_of_fatal hfatal late)⟩

/-- Settles O57. -/
theorem bootLoadsFontThenRom : Obligations.BootLoadsFontThenRom :=
  fun _ _ _ inputs hfont hbase hfit =>
    ⟨_, boot_of_fits inputs hfont hbase hfit, bootState_inv inputs hbase,
      fun a _ => read_bootMemory hfont hfit a, rfl⟩

/-- Settles O58: by the checks of the boot in their order; where all of them pass, none of the three
conditions can hold. -/
theorem bootRefusesABadConfiguration : Obligations.BootRefusesABadConfiguration := by
  intro font rom romBase inputs hbad
  cases font with
  | none => exact ⟨_, rfl⟩
  | some f =>
    simp only [boot]
    split_ifs with hfont hbase hfit
    · exact ⟨_, rfl⟩
    · exact ⟨_, rfl⟩
    · exact ⟨_, rfl⟩
    · rcases hbad with hlen | hhigh | hlong
      · exact absurd (hlen f rfl) hfont
      · exact absurd hhigh hbase
      · exact absurd hlong hfit

/-- Settles O59: the default boot's memory is the reset one, `bootMemory_font`. -/
theorem resetIsTheDefaultBoot : Obligations.ResetIsTheDefaultBoot := by
  refine (boot_of_fits [] (by simp) (by decide) (by decide)).trans ?_
  rw [bootState, bootMemory_font]
  rfl

end Sys2Proof.Proofs
